-- ==== Sys2Proof/Word.lean ====
section
/-! DEFINITION. The word types of the DFC (00_scope.md R5, R8): bytes, 16-bit quantities, request words, byte sequences. -/

namespace Sys2Proof

/-- `u8` of R8: one byte of a frame or of the wire. -/
abbrev Byte := BitVec 8

/-- `u16` of R8: a checksum, a payload, `RESULT`, `TIMEOUT`. -/
abbrev Half := BitVec 16

/-- The word the host writes to `REQ` (30_encoding.md R53). -/
abbrev ReqWord := BitVec 32

/-- `bytes` of R8: a finite byte sequence, first byte first. -/
abbrev Bytes := List Byte

end Sys2Proof
end

