-- ==== Sys2Proof/Syntax.lean ====
section
/-! DEFINITION. The names of the DFC: variants, failure reasons, status kinds, the eighteen instructions of
spec/opcode_table.json, the forms in which their words are presented, and the reasons a decoder rejects one. -/

namespace Sys2Proof

/-- The device variant (00_scope.md R3): a closed set of three. -/
inductive Variant where
  /-- `STD`, the standard variant. -/
  | std
  /-- `ALT`, the alternate-offset-checksum variant. -/
  | alt
  /-- `NOCK`, the no-checksum variant. -/
  | nock
deriving DecidableEq, Repr

/-- The six failure reasons of `decode` (60_exceptions.md R110), in the order of the checks. -/
inductive Failure where
  | incomplete
  | badStart
  | badVersion
  | badLength
  | badEnd
  | mismatch
deriving DecidableEq, Repr

/-- What `decode` gives (41_deframer.md R70): a payload, or a named failure reason. -/
inductive Decoded where
  | ok (payload : Half)
  | fail (reason : Failure)
deriving DecidableEq, Repr

/-- The five outcomes of the status inspector (43_status_config.md R95). -/
inductive StatusKind where
  | unknown
  | error
  | acceptedOK
  | playbackComplete
  | ready
deriving DecidableEq, Repr

/-- The two operations that put a frame on the wire (42_operations.md R85, R86). -/
inductive Transfer where
  /-- An action: fire and forget. -/
  | send
  /-- A query: the reply is read and decoded. -/
  | query
deriving DecidableEq, Repr

/-- The instructions, one constructor per row of spec/opcode_table.json, in the table's order. -/
inductive Instr where
  /-- `SEND cmd, dh, dl` (R85). -/
  | send (cmd dh dl : Byte)
  /-- `QUERY cmd, dh, dl` (R86). -/
  | query (cmd dh dl : Byte)
  /-- `STATUS` (R95). -/
  | status
  /-- `SETVAR v` (R96); the value 3 of `v` is reserved (R54). -/
  | setvar (v : BitVec 2)
  /-- `SETACK a` (R97). -/
  | setack (a : BitVec 1)
  /-- `SETTMO t` (R98). -/
  | settmo (t : Half)
  /-- `ENC.STD` (R61): the pure function `encode` under `STD`. -/
  | encStd (cmd dh dl : Byte) (ack : BitVec 1)
  /-- `ENC.ALT` (R62): `encode` under `ALT`. -/
  | encAlt (cmd dh dl : Byte) (ack : BitVec 1)
  /-- `ENC.NOCK` (R63): `encode` under `NOCK`. -/
  | encNock (cmd dh dl : Byte) (ack : BitVec 1)
  /-- `RX.F10` (R70): `decode` of a structurally valid ten-byte block, its free bytes in frame order. -/
  | rxF10 (cmd ack dh dl ckh ckl : Byte)
  /-- `RX.F8` (R70): `decode` of a structurally valid eight-byte block, its free bytes in frame order. -/
  | rxF8 (cmd ack dh dl : Byte)
  /-- `ST.ERROR` (R95): the reply status code 0x40. -/
  | stError
  /-- `ST.ACCEPTED` (R95): the reply status code 0x41. -/
  | stAccepted
  /-- `ST.PLAYDONE` (R95): the reply status code 0x3D. -/
  | stPlaydone
  /-- `ST.READY` (R95): the reply status code 0x3F. -/
  | stReady
  /-- `CMD.SETVOLUME` (R103): the wrapper `setVolume(x)`; `x` is the unclamped argument, a mathematical integer (R100). -/
  | cmdSetvolume (x : Int)
  /-- `CMD.QUERYVOLUME` (R104): the query for the current volume. -/
  | cmdQueryvolume
  /-- `CMD.0B` (R139, R106): the code 0x0B, framed like any other, with the data bytes the host supplies. -/
  | cmd0B (dh dl : Byte)
deriving DecidableEq, Repr

/-- A word of the table, in the form in which it is presented (30_encoding.md R57): the direction of a frame and the
variant of an outbound one are not in its bits, so the form carries them (log 10). -/
inductive Encoded where
  /-- `REQ32`: a word written to `REQ`. -/
  | req32 (w : ReqWord)
  /-- `F10` or `F8`, outbound: a frame asked of `encode` under the variant. -/
  | outFrame (v : Variant) (frame : Bytes)
  /-- `F10` or `F8`, inbound: a block handed to `decode`, in arrival order. -/
  | inFrame (block : Bytes)
  /-- `B3`: a value of frame position 3, with the integer argument the host supplies beside it (log 11). -/
  | code (c : Byte) (arg : Int)
deriving DecidableEq, Repr

/-- Why the decoder rejects a presented word. -/
inductive Reject where
  /-- A request word whose `op` is 0x0 or 0x7 to 0xF (R54). -/
  | reservedOp (op : BitVec 4)
  /-- A request word with a must-be-zero bit set (R54). -/
  | mustBeZero
  /-- `SETVAR` with `v = 3` (R54). -/
  | reservedVariant
  /-- A byte sequence `encode` builds for no operands under the named variant (R47, R60). -/
  | notOutbound (v : Variant)
  /-- A block that fails the length check or a structural check (R48, R70): no `RX` row matches it. -/
  | malformed (reason : Failure)
  /-- A byte that is none of the seven `B3` rows. -/
  | unlistedCode (c : Byte)
  /-- A `B3` row given an argument it does not take. -/
  | badArgument (c : Byte) (arg : Int)
deriving DecidableEq, Repr

end Sys2Proof
end

