-- ==== Sys2Proof/Machine/Operands.lean ====
section
/-! DEFINITION. The operand forms: byte order, the fields of a request word, the codes of the variants, the words of
frames as numbers, the wrapper's integer and its clamping. -/

namespace Sys2Proof.Machine

/-- `hi8(w) = w[15:8]` (00_scope.md R8). -/
def hi8 (w : Half) : Byte := w.extractLsb' 8 8

/-- `lo8(w) = w[7:0]` (00_scope.md R8). -/
def lo8 (w : Half) : Byte := w.extractLsb' 0 8

/-- `be16(h, l) = {h, l}`, the more significant byte first (R8, 20_memory.md R31). -/
def be16 (h l : Byte) : Half := h ++ l

/-- `zext_8(ack)`: frame position 4 of an outbound frame (30_encoding.md R47, R51). -/
def ackByte (a : BitVec 1) : Byte := a.setWidth 8

/-- `trunc16(x) = x mod 65536`, for every integer `x` (R8). -/
def trunc16 (x : Int) : Half := BitVec.ofInt 16 x

/-- `op`, bits 31:28 of a request word (30_encoding.md R53). -/
def reqOp (w : ReqWord) : BitVec 4 := w.extractLsb' 28 4

/-- `cmd`, bits 23:16 of SEND and QUERY (R53). -/
def reqCmd (w : ReqWord) : Byte := w.extractLsb' 16 8

/-- `dh`, bits 15:8 of SEND and QUERY (R53). -/
def reqDh (w : ReqWord) : Byte := w.extractLsb' 8 8

/-- `dl`, bits 7:0 of SEND and QUERY (R53). -/
def reqDl (w : ReqWord) : Byte := w.extractLsb' 0 8

/-- `v`, bits 1:0 of SETVAR (R53). -/
def reqV (w : ReqWord) : BitVec 2 := w.extractLsb' 0 2

/-- `a`, bit 0 of SETACK (R53). -/
def reqA (w : ReqWord) : BitVec 1 := w.extractLsb' 0 1

/-- `t`, bits 15:0 of SETTMO (R53). -/
def reqT (w : ReqWord) : Half := w.extractLsb' 0 16

/-- The code of a variant (10_state.md R10): 0 `STD`, 1 `ALT`, 2 `NOCK`. -/
def variantCode : Variant → BitVec 2
  | .std => 0#2
  | .alt => 1#2
  | .nock => 2#2

/-- The variant of a code; the code 3 is reserved (10_state.md R10, 30_encoding.md R54). -/
def variantOfCode (v : BitVec 2) : Option Variant :=
  if v = 0#2 then some .std
  else if v = 1#2 then some .alt
  else if v = 2#2 then some .nock
  else none

/-- The `n` bytes of a frame given as one number, position 0 most significant (30_encoding.md R45, R46). -/
def bytesOfNat : Nat → Nat → Bytes
  | 0, _ => []
  | n + 1, w => BitVec.ofNat 8 (w / 256 ^ n) :: bytesOfNat n w

/-- A frame as one number, position 0 most significant (30_encoding.md R45, R46). -/
def natOfBytes (frame : Bytes) : Nat := frame.foldl (fun n b => 256 * n + b.toNat) 0

/-- `clamp(x, lo, hi)` on mathematical integers (44_wrapper_pseudo_ops.md R100). -/
def clamp (x lo hi : Int) : Int := if x < lo then lo else if x > hi then hi else x

end Sys2Proof.Machine
end

