-- ==== Sys2Proof/Machine/Framer.lean ====
section
/-! DEFINITION. The framer: the protocol constants, the checksum and the pure function `encode` (40_framer.md). -/

namespace Sys2Proof.Machine

/-- `START`, the start-marker (00_scope.md R2). -/
def startMarker : Byte := 0x7E#8

/-- `VER`, the protocol-version (R2). -/
def protocolVersion : Byte := 0xFF#8

/-- `LEN`, the payload-length constant (R2): the same in every variant, and it selects nothing (30_encoding.md R52). -/
def payloadLength : Byte := 0x06#8

/-- `END`, the end-marker (R2). -/
def endMarker : Byte := 0xEF#8

/-- `FRAME_LEN(v)` (00_scope.md R4). -/
def frameLen : Variant → Nat
  | .std => 10
  | .alt => 10
  | .nock => 8

/-- The checksum sum `S`, a mathematical integer over frame positions 1 to 6 (40_framer.md R64). -/
def checksumSum (cmd dh dl : Byte) (ack : BitVec 1) : Int :=
  0xFF + 0x06 + cmd.toNat + ack.toNat + dh.toNat + dl.toNat

/-- The checksum of `ENC.STD`: `trunc16(0 - S)` (R61). -/
def checksumStd (cmd dh dl : Byte) (ack : BitVec 1) : Half :=
  trunc16 (0 - checksumSum cmd dh dl ack)

/-- The checksum of `ENC.ALT`: `trunc16(0xFFFF - S + 1)` (R62). -/
def checksumAlt (cmd dh dl : Byte) (ack : BitVec 1) : Half :=
  trunc16 (0xFFFF - checksumSum cmd dh dl ack + 1)

/-- The seven bytes that do not depend on the variant (R60). -/
def frameHead (cmd dh dl : Byte) (ack : BitVec 1) : Bytes :=
  [startMarker, protocolVersion, payloadLength, cmd, ackByte ack, dh, dl]

/-- `tail(v)` of R60: the checksum and the end-marker, or the end-marker alone (R61 to R63). -/
def frameTail (cmd dh dl : Byte) (ack : BitVec 1) : Variant → Bytes
  | .std => [hi8 (checksumStd cmd dh dl ack), lo8 (checksumStd cmd dh dl ack), endMarker]
  | .alt => [hi8 (checksumAlt cmd dh dl ack), lo8 (checksumAlt cmd dh dl ack), endMarker]
  | .nock => [endMarker]

/-- `encode(cmd, dh, dl, ack, v)` (40_framer.md R60). -/
def encodeFrame (cmd dh dl : Byte) (ack : BitVec 1) (v : Variant) : Bytes :=
  frameHead cmd dh dl ack ++ frameTail cmd dh dl ack v

end Sys2Proof.Machine
end

