-- ==== Sys2Proof/Machine/Deframer.lean ====
section
/-! DEFINITION. The deframer: the pure function `decode` (41_deframer.md). -/

namespace Sys2Proof.Machine

/-- `R[i]` of a block; only positions below its length are meant. -/
def blockByte (R : Bytes) (i : Nat) : Byte := R.getD i 0#8

/-- Checks 1 to 5 of `decode` in their order (41_deframer.md R71 to R75): the first that fails, if any. -/
def shapeFailure (R : Bytes) (v : Variant) : Option Failure :=
  if R.length ≠ frameLen v then some .incomplete
  else if blockByte R 0 ≠ startMarker then some .badStart
  else if blockByte R 1 ≠ protocolVersion then some .badVersion
  else if blockByte R 2 ≠ payloadLength then some .badLength
  else if blockByte R (frameLen v - 1) ≠ endMarker then some .badEnd
  else none

/-- `decode(R, exp, v)` (41_deframer.md R70): the structural checks, the correlation test (R76), the payload (R77). -/
def decodeBlock (R : Bytes) (exp : Byte) (v : Variant) : Decoded :=
  match shapeFailure R v with
  | some r => .fail r
  | none =>
    if blockByte R 3 ≠ exp then .fail .mismatch
    else .ok (be16 (blockByte R 5) (blockByte R 6))

end Sys2Proof.Machine
end

