-- ==== Sys2Proof/WellFormed.lean ====
section
/-! DEFINITION. Which terms of Instr the encodings of 30_encoding.md can spell: all but `SETVAR 3` (R54). -/

namespace Sys2Proof

/-- The operand values the encoding of an instruction admits. The one reserved operand value is `v = 3` of `SETVAR`
(30_encoding.md R54; the `exclude` entry of its table row); every other field may hold any value of its width. -/
def Instr.wellFormed : Instr → Bool
  | .send _ _ _ => true
  | .query _ _ _ => true
  | .status => true
  | .setvar v => v != 3#2
  | .setack _ => true
  | .settmo _ => true
  | .encStd _ _ _ _ => true
  | .encAlt _ _ _ _ => true
  | .encNock _ _ _ _ => true
  | .rxF10 _ _ _ _ _ _ => true
  | .rxF8 _ _ _ _ => true
  | .stError => true
  | .stAccepted => true
  | .stPlaydone => true
  | .stReady => true
  | .cmdSetvolume _ => true
  | .cmdQueryvolume => true
  | .cmd0B _ _ => true

end Sys2Proof
end

