-- ==== Sys2Proof/Decode.lean ====
section
/-! DEFINITION. The decoder, total on every presented word and rejecting by name, and after it the encoder, both from
30_encoding.md and spec/opcode_table.json. -/

namespace Sys2Proof

open Sys2Proof.Machine

/-- The request word (30_encoding.md R53): `op` selects the operation, bits shown as 0 must be 0, and every other
word is reserved (R54). -/
def decodeReq (w : ReqWord) : Except Reject Instr :=
  if reqOp w = 0x1#4 then
    if w.extractLsb' 24 4 = 0#4 then .ok (.send (reqCmd w) (reqDh w) (reqDl w)) else .error .mustBeZero
  else if reqOp w = 0x2#4 then
    if w.extractLsb' 24 4 = 0#4 then .ok (.query (reqCmd w) (reqDh w) (reqDl w)) else .error .mustBeZero
  else if reqOp w = 0x3#4 then
    if w.extractLsb' 0 28 = 0#28 then .ok .status else .error .mustBeZero
  else if reqOp w = 0x4#4 then
    if w.extractLsb' 2 26 = 0#26 then
      if reqV w = 3#2 then .error .reservedVariant else .ok (.setvar (reqV w))
    else .error .mustBeZero
  else if reqOp w = 0x5#4 then
    if w.extractLsb' 1 27 = 0#27 then .ok (.setack (reqA w)) else .error .mustBeZero
  else if reqOp w = 0x6#4 then
    if w.extractLsb' 16 12 = 0#12 then .ok (.settmo (reqT w)) else .error .mustBeZero
  else .error (.reservedOp (reqOp w))

/-- The instruction that asks the framer for a frame under a variant (rows `ENC.STD`, `ENC.ALT`, `ENC.NOCK`). -/
def encInstr (v : Variant) (cmd dh dl : Byte) (ack : BitVec 1) : Instr :=
  match v with
  | .std => .encStd cmd dh dl ack
  | .alt => .encAlt cmd dh dl ack
  | .nock => .encNock cmd dh dl ack

/-- An outbound frame: the operands stand at positions 3 to 6 (R47), and the rest of the frame must be what `encode`
builds of them. -/
def decodeOut (v : Variant) (F : Bytes) : Except Reject Instr :=
  let cmd := blockByte F 3
  let ack : BitVec 1 := (blockByte F 4).setWidth 1
  let dh := blockByte F 5
  let dl := blockByte F 6
  if F = encodeFrame cmd dh dl ack v then .ok (encInstr v cmd dh dl ack) else .error (.notOutbound v)

/-- An inbound block: the row whose structural checks it passes (R48; the match and mask of `RX.F10` and `RX.F8`).
Eight bytes are judged as `F8`, any other number as `F10`. -/
def decodeIn (R : Bytes) : Except Reject Instr :=
  if R.length = 8 then
    match shapeFailure R .nock with
    | some r => .error (.malformed r)
    | none => .ok (.rxF8 (blockByte R 3) (blockByte R 4) (blockByte R 5) (blockByte R 6))
  else
    match shapeFailure R .std with
    | some r => .error (.malformed r)
    | none =>
      .ok (.rxF10 (blockByte R 3) (blockByte R 4) (blockByte R 5) (blockByte R 6) (blockByte R 7) (blockByte R 8))

/-- A `B3` row that takes no argument: the argument beside it must be 0. -/
def plainCode (c : Byte) (arg : Int) (i : Instr) : Except Reject Instr :=
  if arg = 0 then .ok i else .error (.badArgument c arg)

/-- A value of frame position 3 (rows of format `B3`): the four status codes (R50) and the three command values the
source names (R49). The argument of 0x0B is the 16-bit `{dh, dl}` of R51; that of 0x06 is any integer (R100, R103). -/
def decodeCode (c : Byte) (arg : Int) : Except Reject Instr :=
  if c = 0x40#8 then plainCode c arg .stError
  else if c = 0x41#8 then plainCode c arg .stAccepted
  else if c = 0x3D#8 then plainCode c arg .stPlaydone
  else if c = 0x3F#8 then plainCode c arg .stReady
  else if c = 0x06#8 then .ok (.cmdSetvolume arg)
  else if c = 0x43#8 then plainCode c arg .cmdQueryvolume
  else if c = 0x0B#8 then
    if 0 ≤ arg ∧ arg < 65536 then .ok (.cmd0B (hi8 (trunc16 arg)) (lo8 (trunc16 arg)))
    else .error (.badArgument c arg)
  else .error (.unlistedCode c)

/-- The decoder: the form of the word says which table rows can match it (30_encoding.md R57). -/
def decode : Encoded → Except Reject Instr
  | .req32 w => decodeReq w
  | .outFrame v F => decodeOut v F
  | .inFrame R => decodeIn R
  | .code c arg => decodeCode c arg

/-- The presented form of a table word of `nbits` bits, numbered as the table numbers it: a frame is one number with
position 0 most significant (R57). The direction of a frame is not in its bits; a bare word of 80 or 64 bits is read by
match and mask, which only the inbound rows have (log 10). A `B3` byte has the argument 0 beside it. -/
def presentTableWord (nbits w : Nat) : Option Encoded :=
  if 2 ^ nbits ≤ w then none
  else if nbits = 32 then some (.req32 (BitVec.ofNat 32 w))
  else if nbits = 80 then some (.inFrame (bytesOfNat 10 w))
  else if nbits = 64 then some (.inFrame (bytesOfNat 8 w))
  else if nbits = 8 then some (.code (BitVec.ofNat 8 w) 0)
  else none

/-- The instruction the decoder reads from a table word. -/
def decodeTableWord (nbits w : Nat) : Option Instr :=
  match presentTableWord nbits w with
  | none => none
  | some p =>
    match decode p with
    | .ok i => some i
    | .error _ => none

/-- The encoder: the word of each instruction, in the form of its row (30_encoding.md R45, R46, R53; opcode_table.json). -/
def encode : Instr → Encoded
  | .send cmd dh dl => .req32 (0x10#8 ++ cmd ++ dh ++ dl)
  | .query cmd dh dl => .req32 (0x20#8 ++ cmd ++ dh ++ dl)
  | .status => .req32 0x30000000#32
  | .setvar v => .req32 (0x10000000#30 ++ v)
  | .setack a => .req32 (0x28000000#31 ++ a)
  | .settmo t => .req32 (0x6000#16 ++ t)
  | .encStd cmd dh dl ack => .outFrame .std (encodeFrame cmd dh dl ack .std)
  | .encAlt cmd dh dl ack => .outFrame .alt (encodeFrame cmd dh dl ack .alt)
  | .encNock cmd dh dl ack => .outFrame .nock (encodeFrame cmd dh dl ack .nock)
  | .rxF10 cmd ack dh dl ckh ckl =>
    .inFrame [startMarker, protocolVersion, payloadLength, cmd, ack, dh, dl, ckh, ckl, endMarker]
  | .rxF8 cmd ack dh dl => .inFrame [startMarker, protocolVersion, payloadLength, cmd, ack, dh, dl, endMarker]
  | .stError => .code 0x40#8 0
  | .stAccepted => .code 0x41#8 0
  | .stPlaydone => .code 0x3D#8 0
  | .stReady => .code 0x3F#8 0
  | .cmdSetvolume x => .code 0x06#8 x
  | .cmdQueryvolume => .code 0x43#8 0
  | .cmd0B dh dl => .code 0x0B#8 ((be16 dh dl).toNat : Int)

end Sys2Proof
end

