-- ==== Sys2Proof/Config.lean ====
section
/-! DEFINITION. What an implementation fixes and the free values: opaque constants with no body, of which nothing in
Lean can prove a value. -/

namespace Sys2Proof.Config

/-- `TIMEOUT_RESET_MS` (00_scope.md R7, 10_state.md R12): the open parameter `TIMEOUT` takes at reset. DESIGN CHOICE, log 4; safe. -/
opaque timeoutResetMs : Half

/-- The content of `T.pending` right after reset: arbitrary (70_reset_and_hazards.md R126, U15). Log 5; safe. -/
opaque pendingAtReset : Bytes

/-- The draw `A` of the bounded read that takes the free value numbered `n` (20_memory.md R42): under no law. Log 2; safe. -/
opaque reply (n : Nat) : Bytes

/-- The bytes the transport appends to `T.pending` in an unscripted moment (20_memory.md R43): under no law. Log 3; safe. -/
opaque arrival (n : Nat) : Bytes

/-- What a view shows while `BUSY = 1` (20_memory.md R35, U14): any value. Log 14; safe. -/
opaque busyView (n : Nat) : BitVec 32

/-- `SETTLE_RESET_MS` (R7): "about 3000". Host side; log 19. -/
opaque settleResetMs : Nat

/-- `SETTLE_SLEEP_MS` (R7): open. Host side; log 19. -/
opaque settleSleepMs : Nat

/-- `SETTLE_STANDBY_MS` (R7): open. Host side; log 19. -/
opaque settleStandbyMs : Nat

/-- `VARIANT_EXTRA_SETTLE_MS(v)` (R7, 70_reset_and_hazards.md R130): open. Host side; log 19. -/
opaque variantExtraSettleMs (v : Variant) : Nat

/-- `BOOT_DELAY_MS` (R7, 70_reset_and_hazards.md R127): "about 3000". Host side; log 19. -/
opaque bootDelayMs : Nat

end Sys2Proof.Config
end

