-- ==== Sys2Proof/Machine/State.lean ====
section
/-! DEFINITION. The state of the DFC as plain data (10_state.md), the reasons a step stops, and the state right after
reset (70_reset_and_hazards.md R125). -/

namespace Sys2Proof.Machine

/-- One of the two byte-addressed spaces `TXBUF` and `RXBUF` (20_memory.md R30): the bytes that differ from 0x00, the
reset content (10_state.md R13, R14), by rising position. -/
abbrev Memory := List Host.Cell

/-- The two byte-addressed spaces (20_memory.md R30). -/
inductive Space where
  | txbuf
  | rxbuf
deriving DecidableEq, Repr

/-- `TXLEN` (10_state.md R15): 0, 8 or 10; no other value exists (U16). -/
inductive TxLen where
  | zero
  | eight
  | ten
deriving DecidableEq, Repr

/-- `PHASE` (10_state.md R20). -/
inductive Phase where
  | idle
  | tx
  | flush
  | rx
  | check
deriving DecidableEq, Repr

/-- What an operation hands back to the host. The model's own record of the return values of R85, R86, R95 and of the
pure functions (log 7). -/
inductive Answer where
  /-- Completes silently (R85, R96 to R98). -/
  | silent
  /-- The number a QUERY returns (R86). -/
  | result (v : Half)
  /-- The 11-bit value `{kind, detail}` of STATUS (R95). -/
  | status (w : BitVec 11)
  /-- The frame `encode` returns (R60). -/
  | frame (F : Bytes)
  /-- The outcome `decode` returns (R70). -/
  | decoded (d : Decoded)
  /-- The content of a read view (R35). -/
  | view (w : BitVec 32)
deriving DecidableEq, Repr

/-- One event from outside the DFC (log 3): the host's accesses, the transport's own step, time, and reset. -/
inductive Input where
  /-- The host presents a word; its operation is one transaction (00_scope.md R6). -/
  | call (p : Encoded)
  /-- The host presents a word; a SEND or QUERY of it runs in the phases of 10_state.md R20 (log 15). -/
  | start (p : Encoded)
  /-- The host reads a register by its index (20_memory.md R35). How an index becomes a bus address is the open parameter
  `HOST_BUS` (00_scope.md R7): the index itself, 8 bits wide, stands for the address. DESIGN CHOICE, log 23. -/
  | busRead (index : Byte)
  /-- The host writes a register by its index (R35; `HOST_BUS` as above, log 23); index 0x00 is `REQ`. -/
  | busWrite (index : Byte) (w : ReqWord)
  /-- Bytes reach the transport (R43; `; arrives:` of 30_encoding.md R56). -/
  | arrives (bytes : Bytes)
  /-- One millisecond passes (10_state.md R21). -/
  | tick
  /-- A busy DFC takes its next step and nothing else happens, so that other events can be placed between the steps of a
  phase walk (20_memory.md R43: at any moment). -/
  | proceed
  /-- The reset input (R125). -/
  | reset
deriving DecidableEq, Repr

/-- Everything 10_state.md gives the machine, and, below the line, the model's own fields. -/
structure State where
  /-- `VARIANT` (R10). -/
  variant : Variant
  /-- `ACK_EN` (R11). -/
  ackEn : BitVec 1
  /-- `TIMEOUT`, milliseconds (R12). -/
  timeout : Half
  /-- `TXB[0..9]` (R13). -/
  txb : Memory
  /-- `TXLEN` (R15). -/
  txlen : TxLen
  /-- `RXB[0..9]` (R14). -/
  rxb : Memory
  /-- `RXCNT` (R16), 0 to 10. -/
  rxcnt : Fin 11
  /-- `RESULT` (R17). -/
  result : Half
  /-- `FAIL` (R18): `none` is the spec's own code 0, `None`. -/
  fail : Option Failure
  /-- `BUSY` (R19). -/
  busy : Bool
  /-- `PHASE` (R20). -/
  phase : Phase
  /-- `IDX` (R20): the next position, at most 10. -/
  idx : Fin 11
  /-- `TMR` (R21), milliseconds left. -/
  tmr : Half
  /-- `T.out` (R22): every byte the DFC has written, in order. -/
  out : Bytes
  /-- `T.pending` (R22): bytes that have arrived and have not been read. -/
  pending : Bytes
  /-- The model's own: the transfer the phase walk performs; `none` when there is none (log 15). -/
  cur : Option Transfer
  /-- The model's own: what the world outside does next, in order (log 3). -/
  inputs : List Input
  /-- The model's own: the scripted draws of the coming bounded reads, in order (log 2). -/
  line : List Bytes
  /-- The model's own: what the last operation handed back to the host (log 7). -/
  answer : Answer
  /-- The model's own: how many free values have been taken (log 2). -/
  draws : Nat
deriving DecidableEq, Repr

/-- Why a step can fault. The spec has no trap (60_exceptions.md R112, R113). -/
inductive Fault where
  /-- `MemRead` or `MemWrite` at a position that does not exist (20_memory.md R30, R33). Raised by `memRead` and
  `memWrite`; no operation of the DFC forms such a position. Safe. -/
  | noSuchPosition (space : Space) (position : Nat)
deriving DecidableEq, Repr

/-- Why a step can be refused: the usage-precondition violations to which the spec gives no meaning (R116). -/
inductive Refusal where
  /-- An instruction with no meaning yet. Raised by exec's arms alone. Safe. -/
  | notModelled (mnemonic : String)
  /-- The host presented a word the decoder rejects (30_encoding.md R54, U3). Raised when a word is accepted. Safe. -/
  | undecodable (r : Reject)
  /-- `SETVAR` with the reserved value (R54). Raised by the meaning of SETVAR on an ill-formed term. Safe. -/
  | reservedVariant
  /-- A read of the write-only `REQ` (R35). Raised by the bus read. Safe. -/
  | writeOnlyIndex (index : Byte)
  /-- A write to a read-only index (R35, U2). Raised by the bus write. Safe. -/
  | readOnlyIndex (index : Byte)
  /-- An access to an index outside the table (R35, U2). Raised by the bus accesses. Safe. -/
  | noSuchIndex (index : Byte)
deriving DecidableEq, Repr

/-- The machine right after reset (R125): every register at the value of its own rule of 10_state.md. `TIMEOUT` is the
open parameter (log 4); the transport's streams are not the DFC's to reset (R126): nothing written yet, anything
pending (log 5). -/
def State.reset : State where
  variant := .std
  ackEn := 0#1
  timeout := Config.timeoutResetMs
  txb := []
  txlen := .zero
  rxb := []
  rxcnt := 0
  result := 0#16
  fail := none
  busy := false
  phase := .idle
  idx := 0
  tmr := 0#16
  out := []
  pending := Config.pendingAtReset
  cur := none
  inputs := []
  line := []
  answer := .silent
  draws := 0

end Sys2Proof.Machine
end

