-- ==== Sys2Proof/Machine/Flags.lean ====
section
/-! DEFINITION. The codes software sees: the failure reason, the status kind and word, the lengths (10_state.md R10 to
R18, 43_status_config.md R95, 60_exceptions.md R110). -/

namespace Sys2Proof.Machine

/-- The code of `FAIL` (10_state.md R18, R110); 7 is never held. -/
def failCode : Option Failure → BitVec 3
  | none => 0#3
  | some .incomplete => 1#3
  | some .badStart => 2#3
  | some .badVersion => 3#3
  | some .badLength => 4#3
  | some .badEnd => 5#3
  | some .mismatch => 6#3

/-- The code of a status kind (R95); 5 to 7 are never returned. -/
def kindCode : StatusKind → BitVec 3
  | .unknown => 0#3
  | .error => 1#3
  | .acceptedOK => 2#3
  | .playbackComplete => 3#3
  | .ready => 4#3

/-- The kind of a byte of frame position 3 (R95, 30_encoding.md R50); any other byte is `Unknown` (R55). -/
def classify (c : Byte) : StatusKind :=
  if c = 0x40#8 then .error
  else if c = 0x41#8 then .acceptedOK
  else if c = 0x3D#8 then .playbackComplete
  else if c = 0x3F#8 then .ready
  else .unknown

/-- The status value `{kind[2:0], detail[7:0]}` of code `c` beside byte 6 `d`: the detail belongs to `Error` alone (R95). -/
def statusOf (c d : Byte) : BitVec 11 :=
  match classify c with
  | .error => kindCode .error ++ d
  | k => kindCode k ++ 0x00#8

/-- `TXLEN` as a number (10_state.md R15). -/
def TxLen.toNat : TxLen → Nat
  | .zero => 0
  | .eight => 8
  | .ten => 10

/-- The value `TXLEN` takes from a frame of the variant (R15). -/
def txLenOf : Variant → TxLen
  | .std => .ten
  | .alt => .ten
  | .nock => .eight

/-- The value QUERY returns and `RESULT` takes (42_operations.md R87): the payload, or the sentinel 0. -/
def resultOf : Decoded → Half
  | .ok p => p
  | .fail _ => 0x0000#16

/-- The reason `FAIL` records (R86, R110): none on success. -/
def failOf : Decoded → Option Failure
  | .ok _ => none
  | .fail r => some r

end Sys2Proof.Machine
end

