-- ==== Sys2Proof/Machine/Ops.lean ====
section
/-! DEFINITION. The named operations over the buffers, the streams and the registers: MemRead and MemWrite, the three
transport primitives, the free values, the record of a QUERY's outcome, and the reset event. -/

namespace Sys2Proof.Machine

/-- The byte at a position; an unlisted one is 0x00, the reset content (10_state.md R13, R14). -/
def Memory.read (m : Memory) (a : Nat) : Byte :=
  match m with
  | [] => 0x00#8
  | c :: rest => if c.1 = a then c.2 else Memory.read rest a

/-- Put a cell before the first one at a higher position. -/
def Memory.insert (a : Nat) (v : Byte) : Memory → Memory
  | [] => [(a, v)]
  | c :: rest => if a < c.1 then (a, v) :: c :: rest else c :: Memory.insert a v rest

/-- Store a byte: the cell it replaces goes, and a cell holding 0x00 is not listed. -/
def Memory.write (m : Memory) (a : Nat) (v : Byte) : Memory :=
  let others := m.filter (fun c => c.1 != a)
  if v = 0x00#8 then others else Memory.insert a v others

/-- Store a block at rising positions. -/
def Memory.writeBlock (m : Memory) (a : Nat) : Bytes → Memory
  | [] => m
  | b :: rest => Memory.writeBlock (Memory.write m a b) (a + 1) rest

/-- The `n` bytes at positions 0 to `n - 1`. -/
def Memory.block (m : Memory) (n : Nat) : Bytes := (List.range n).map (Memory.read m)

/-- The canonical form: positions below 10, strictly rising, and no listed 0x00. -/
def Memory.wf : Memory → Bool
  | [] => true
  | c :: rest =>
    decide (c.1 < 10) && c.2 != 0x00#8 && rest.all (fun d => decide (c.1 < d.1)) && Memory.wf rest

/-- The buffer behind a space (20_memory.md R30). -/
def spaceOf (sp : Space) (s : State) : Memory :=
  match sp with
  | .txbuf => s.txb
  | .rxbuf => s.rxb

/-- `MemRead(space, addr, 1)` (20_memory.md R33): positions 0 to 9 exist, no others. -/
def memRead (sp : Space) (a : Nat) (s : State) : Except Fault Byte :=
  if a ≤ 9 then .ok (Memory.read (spaceOf sp s) a) else .error (.noSuchPosition sp a)

/-- `MemWrite(space, addr, 1, v)` (R33). -/
def memWrite (sp : Space) (a : Nat) (v : Byte) (s : State) : Except Fault State :=
  if a ≤ 9 then
    match sp with
    | .txbuf => .ok { s with txb := Memory.write s.txb a v }
    | .rxbuf => .ok { s with rxb := Memory.write s.rxb a v }
  else .error (.noSuchPosition sp a)

/-- `TxWrite(B)` (20_memory.md R40): every byte is accepted, in order (log 21). -/
def txWrite (B : Bytes) (s : State) : State := { s with out := s.out ++ B }

/-- `RxDiscard()` (R41). -/
def rxDiscard (s : State) : State := { s with pending := [] }

/-- The transport's own step (R43): bytes are appended to the pending input. -/
def arrive (A : Bytes) (s : State) : State := { s with pending := s.pending ++ A }

/-- `RxReadExactly(n)`, untimed, with the draw `A` (R42): the bytes returned, and the state with them removed. -/
def rxReadExactly (n : Nat) (A : Bytes) (s : State) : Bytes × State :=
  let s := arrive A s
  (s.pending.take n, { s with pending := s.pending.drop n })

/-- The draw of the next bounded read (R42): the scripted one if there is one, else a free value (log 2). -/
def nextDraw (s : State) : Bytes :=
  match s.line with
  | A :: _ => A
  | [] => Config.reply s.draws

/-- The state after `nextDraw` has been taken: the script is one shorter, or the counter one higher. -/
def takeDraw (s : State) : State :=
  { s with line := s.line.tail, draws := if s.line.isEmpty then s.draws + 1 else s.draws }

/-- Hand a value back to the host (log 7). -/
def handBack (a : Answer) (s : State) : State := { s with answer := a }

/-- Write a frame to `TXB[0..N-1]` and its length to `TXLEN` (42_operations.md R85; 10_state.md R13, R15). -/
def loadTx (F : Bytes) (s : State) : State :=
  { s with txb := Memory.writeBlock s.txb 0 F, txlen := txLenOf s.variant }

/-- The frame of the current variant and acknowledgement flag (R85, R92). -/
def buildFrame (cmd dh dl : Byte) (s : State) : Bytes := encodeFrame cmd dh dl s.ackEn s.variant

/-- What SEND and QUERY share (R85, R86): build the frame, load it, write it to the wire. -/
def transmit (cmd dh dl : Byte) (s : State) : State :=
  let F := buildFrame cmd dh dl s
  txWrite F (loadTx F s)

/-- Write the block a bounded read returned to `RXB[0..k-1]`, and `k` to `RXCNT` (10_state.md R14, R16). -/
def storeRx (R : Bytes) (s : State) : State :=
  { s with rxb := Memory.writeBlock s.rxb 0 R, rxcnt := Fin.ofNat 11 R.length }

/-- Record the outcome of a QUERY in `RESULT` and `FAIL` (R86, R87; 60_exceptions.md R112): all that a failure does. -/
def recordOutcome (d : Decoded) (s : State) : State :=
  { s with result := resultOf d, fail := failOf d }

/-- The whole of a SEND (R85). -/
def sendOp (cmd dh dl : Byte) (s : State) : State := handBack .silent (transmit cmd dh dl s)

/-- The whole of a QUERY with the draw `A` (R86): one write, one discard, one read, in that order (R89); the expected
command is read back from `TXB[3]` (R88). -/
def queryOp (A : Bytes) (cmd dh dl : Byte) (s : State) : State :=
  let s1 := rxDiscard (transmit cmd dh dl s)
  let r := rxReadExactly (frameLen s.variant) A s1
  let s2 := storeRx r.1 r.2
  let s3 := recordOutcome (decodeBlock r.1 (Memory.read s2.txb 3) s.variant) s2
  handBack (.result s3.result) s3

/-- A QUERY with the draw that comes next. -/
def queryNext (cmd dh dl : Byte) (s : State) : State := queryOp (nextDraw s) cmd dh dl (takeDraw s)

/-- The outcome of `decode` on a block, for the command and the variant QUERY would use: `TXB[3]` and `VARIANT` (R86,
R88; log 9). -/
def judge (R : Bytes) (s : State) : Decoded := decodeBlock R (Memory.read s.txb 3) s.variant

/-- The reset event (70_reset_and_hazards.md R125): every register takes its reset value, an operation in progress is
abandoned, and `T.out` and `T.pending` stay, as do the fields that belong to the agents outside (log 17). -/
def resetEvent (s : State) : State :=
  { State.reset with
    out := s.out, pending := s.pending, inputs := s.inputs, line := s.line, answer := s.answer, draws := s.draws }

end Sys2Proof.Machine
end

