-- ==== Sys2Proof/Machine/Codec.lean ====
section
/-! DEFINITION. The rows of the two pure functions: `encode` (40_framer.md) and `decode` (41_deframer.md). Neither writes
a register (R60, R82); the value goes to the host (log 9). -/

namespace Sys2Proof.Machine

/-- `ENC.STD` (R61). -/
def execEncStd (cmd dh dl : Byte) (ack : BitVec 1) (s : State) : Host.Outcome State Fault Refusal :=
  .next (handBack (.frame (encodeFrame cmd dh dl ack .std)) s)

/-- `ENC.ALT` (R62). -/
def execEncAlt (cmd dh dl : Byte) (ack : BitVec 1) (s : State) : Host.Outcome State Fault Refusal :=
  .next (handBack (.frame (encodeFrame cmd dh dl ack .alt)) s)

/-- `ENC.NOCK` (R63). -/
def execEncNock (cmd dh dl : Byte) (ack : BitVec 1) (s : State) : Host.Outcome State Fault Refusal :=
  .next (handBack (.frame (encodeFrame cmd dh dl ack .nock)) s)

/-- `RX.F10` (R70): the ten-byte block of the row (30_encoding.md R45), judged. -/
def execRxF10 (cmd ack dh dl ckh ckl : Byte) (s : State) : Host.Outcome State Fault Refusal :=
  let R := [startMarker, protocolVersion, payloadLength, cmd, ack, dh, dl, ckh, ckl, endMarker]
  .next (handBack (.decoded (judge R s)) s)

/-- `RX.F8` (R70): the eight-byte block of the row (30_encoding.md R46), judged. -/
def execRxF8 (cmd ack dh dl : Byte) (s : State) : Host.Outcome State Fault Refusal :=
  let R := [startMarker, protocolVersion, payloadLength, cmd, ack, dh, dl, endMarker]
  .next (handBack (.decoded (judge R s)) s)

end Sys2Proof.Machine
end

