-- ==== Sys2Proof/Machine/Codes.lean ====
section
/-! DEFINITION. The four reply status codes (30_encoding.md R50): the status inspector's answer when frame position 3
holds the code (43_status_config.md R95), with `RXB[6]` as byte 6. No register is written (log 9). -/

namespace Sys2Proof.Machine

/-- The inspector's answer for the code `c` beside the buffered byte 6. -/
def inspectCode (c : Byte) (s : State) : State := handBack (.status (statusOf c (Memory.read s.rxb 6))) s

/-- `ST.ERROR`, 0x40 (R95, 60_exceptions.md R115): `(Error, RXB[6])`. -/
def execStError (s : State) : Host.Outcome State Fault Refusal := .next (inspectCode 0x40#8 s)

/-- `ST.ACCEPTED`, 0x41 (R95): `(AcceptedOK, 0x00)`. -/
def execStAccepted (s : State) : Host.Outcome State Fault Refusal := .next (inspectCode 0x41#8 s)

/-- `ST.PLAYDONE`, 0x3D (R95): `(PlaybackComplete, 0x00)`. -/
def execStPlaydone (s : State) : Host.Outcome State Fault Refusal := .next (inspectCode 0x3D#8 s)

/-- `ST.READY`, 0x3F (R95): `(Ready, 0x00)`. -/
def execStReady (s : State) : Host.Outcome State Fault Refusal := .next (inspectCode 0x3F#8 s)

end Sys2Proof.Machine
end

