-- ==== Sys2Proof/Machine/System.lean ====
section
/-! DEFINITION. The status inspector and the configuration operations (43_status_config.md). -/

namespace Sys2Proof.Machine

/-- The value of STATUS and of the view `STATUSV` (R95): a function of `RXB[3]` and `RXB[6]` alone. -/
def statusWord (s : State) : BitVec 11 := statusOf (Memory.read s.rxb 3) (Memory.read s.rxb 6)

/-- `STATUS` (R95): no register is written. -/
def execStatus (s : State) : Host.Outcome State Fault Refusal := .next (handBack (.status (statusWord s)) s)

/-- `SETVAR v` (R96): `VARIANT` alone; the reserved value has no meaning (30_encoding.md R54). -/
def execSetvar (v : BitVec 2) (s : State) : Host.Outcome State Fault Refusal :=
  match variantOfCode v with
  | some x => .next (handBack .silent { s with variant := x })
  | none => .refused .reservedVariant

/-- `SETACK a` (R97): `ACK_EN` alone. -/
def execSetack (a : BitVec 1) (s : State) : Host.Outcome State Fault Refusal :=
  .next (handBack .silent { s with ackEn := a })

/-- `SETTMO t` (R98): `TIMEOUT` alone, unclamped. -/
def execSettmo (t : Half) (s : State) : Host.Outcome State Fault Refusal :=
  .next (handBack .silent { s with timeout := t })

end Sys2Proof.Machine
end

