-- ==== Sys2Proof/Machine/Transfer.lean ====
section
/-! DEFINITION. The transfer operations SEND and QUERY (42_operations.md). -/

namespace Sys2Proof.Machine

/-- `SEND cmd, dh, dl` (R85). -/
def execSend (cmd dh dl : Byte) (s : State) : Host.Outcome State Fault Refusal := .next (sendOp cmd dh dl s)

/-- `QUERY cmd, dh, dl` (R86). -/
def execQuery (cmd dh dl : Byte) (s : State) : Host.Outcome State Fault Refusal := .next (queryNext cmd dh dl s)

end Sys2Proof.Machine
end

