-- ==== Sys2Proof/Machine/Wrappers.lean ====
section
/-! DEFINITION. The host's pseudo-operations (44_wrapper_pseudo_ops.md) and the rows of the three command values the
source names: each is one SEND or one QUERY after clamping. -/

namespace Sys2Proof.Machine

/-- A wrapper that takes an argument (R101): action or query, command code, legal range, and how the clamped argument is
placed in `dh` and `dl`. -/
structure Wrapper where
  kind : Transfer
  code : Byte
  lo : Int
  hi : Int
  dh : Int → Byte
  dl : Int → Byte

/-- The data bytes a wrapper sends for the unclamped argument `x` (R100, R101). -/
def wrapperData (w : Wrapper) (x : Int) : Byte × Byte :=
  let v := clamp x w.lo w.hi
  (w.dh v, w.dl v)

/-- A wrapper call (R101): one SEND, or one QUERY, of its code with the clamped argument. -/
def wrapperCall (w : Wrapper) (x : Int) (s : State) : State :=
  let d := wrapperData w x
  match w.kind with
  | .send => sendOp w.code d.1 d.2 s
  | .query => queryNext w.code d.1 d.2 s

/-- The argument ranges the source gives (R102): track number, folder number, volume, EQ preset. -/
inductive ArgKind where
  | track
  | folder
  | volume
  | eqPreset
deriving DecidableEq, Repr

/-- Lower and upper legal bound of an argument (R102). -/
def argRange : ArgKind → Int × Int
  | .track => (1, 9999)
  | .folder => (1, 99)
  | .volume => (0, 30)
  | .eqPreset => (0, 5)

/-- `setVolume` (R103): action 0x06, `dh = 0x00`, `dl` = the clamped volume. -/
def setVolumeWrapper : Wrapper where
  kind := .send
  code := 0x06#8
  lo := (argRange .volume).1
  hi := (argRange .volume).2
  dh := fun _ => 0x00#8
  dl := fun v => lo8 (trunc16 v)

/-- `playTrack` (R106): an action over the track range; its code and the placement of its argument are not in the source,
so they are arguments here. -/
def playTrackWrapper (code : Byte) (dh dl : Int → Byte) : Wrapper where
  kind := .send
  code := code
  lo := (argRange .track).1
  hi := (argRange .track).2
  dh := dh
  dl := dl

/-- The mode-affecting wrappers that enforce a settle delay (R105). -/
inductive ModeWrapper where
  | setSource
  | sleep
  | standbyEnable
  | reset
deriving DecidableEq, Repr

/-- How long the host waits after a mode-affecting wrapper, in milliseconds (R105, 00_scope.md R7): 200 for a source
change, open numbers for the others. The DFC does not wait (70_reset_and_hazards.md R129; log 19). -/
def settleMs : ModeWrapper → Nat
  | .setSource => 200
  | .sleep => Config.settleSleepMs
  | .standbyEnable => Config.settleStandbyMs
  | .reset => Config.settleResetMs

/-- The host's wait after a transmission under a variant: the variant's extra delay after every one (00_scope.md R7,
70_reset_and_hazards.md R130), and the settle delay as well after a mode-affecting wrapper (R105). -/
def hostWaitMs (w : Option ModeWrapper) (v : Variant) : Nat :=
  match w with
  | none => Config.variantExtraSettleMs v
  | some w => settleMs w + Config.variantExtraSettleMs v

/-- A mode-affecting wrapper is an action (R105); its code, its argument's range and the placement of its argument are not
in the source, so they are arguments here. One that takes no argument places the same bytes for every one. -/
def modeWrapper (code : Byte) (lo hi : Int) (dh dl : Int → Byte) : Wrapper where
  kind := .send
  code := code
  lo := lo
  hi := hi
  dh := dh
  dl := dl

/-- A call of a mode-affecting wrapper (R105): the action, and how long the host then waits. -/
def modeCall (m : ModeWrapper) (code : Byte) (lo hi : Int) (dh dl : Int → Byte) (x : Int) (s : State) : State × Nat :=
  (wrapperCall (modeWrapper code lo hi dh dl) x s, hostWaitMs (some m) s.variant)

/-- `getTotalFolders` (R106): a query; its code and its data bytes are not in the source, so they are arguments here. No
argument of it is shown. -/
def getTotalFoldersWrapper (code dh dl : Byte) : Wrapper where
  kind := .query
  code := code
  lo := 0
  hi := 0
  dh := fun _ => dh
  dl := fun _ => dl

/-- The host's wait before its first SEND or QUERY (70_reset_and_hazards.md R127): `BOOT_DELAY_MS` where the host's option
`BOOT_DELAY_EN` is on, which is the default. The DFC does not wait (log 19). -/
def bootWaitMs (bootDelayEn : Bool) : Nat := if bootDelayEn then Config.bootDelayMs else 0

/-- `CMD.SETVOLUME`: `setVolume(x)` (R103). -/
def execCmdSetvolume (x : Int) (s : State) : Host.Outcome State Fault Refusal := .next (wrapperCall setVolumeWrapper x s)

/-- `CMD.QUERYVOLUME`: the query for the current volume, expansion `QUERY 0x43, 0x00, 0x00` (R104; log 13). -/
def execCmdQueryvolume (s : State) : Host.Outcome State Fault Refusal := .next (queryNext 0x43#8 0x00#8 0x00#8 s)

/-- `CMD.0B`: the code 0x0B sent like any other action code (R139, 30_encoding.md R49; log 12). -/
def execCmd0B (dh dl : Byte) (s : State) : Host.Outcome State Fault Refusal := .next (sendOp 0x0B#8 dh dl s)

end Sys2Proof.Machine
end

