-- ==== Sys2Proof/Machine/Dispatch.lean ====
section
/-! DEFINITION. One arm per constructor of Instr: the meaning it calls. -/

namespace Sys2Proof.Machine

def exec (i : Instr) (s : State) : Host.Outcome State Fault Refusal :=
  match i with
  | .send cmd dh dl => Sys2Proof.Machine.execSend cmd dh dl s
  | .query cmd dh dl => Sys2Proof.Machine.execQuery cmd dh dl s
  | .status => Sys2Proof.Machine.execStatus s
  | .setvar v => Sys2Proof.Machine.execSetvar v s
  | .setack a => Sys2Proof.Machine.execSetack a s
  | .settmo t => Sys2Proof.Machine.execSettmo t s
  | .encStd cmd dh dl ack => Sys2Proof.Machine.execEncStd cmd dh dl ack s
  | .encAlt cmd dh dl ack => Sys2Proof.Machine.execEncAlt cmd dh dl ack s
  | .encNock cmd dh dl ack => Sys2Proof.Machine.execEncNock cmd dh dl ack s
  | .rxF10 cmd ack dh dl ckh ckl => Sys2Proof.Machine.execRxF10 cmd ack dh dl ckh ckl s
  | .rxF8 cmd ack dh dl => Sys2Proof.Machine.execRxF8 cmd ack dh dl s
  | .stError => Sys2Proof.Machine.execStError s
  | .stAccepted => Sys2Proof.Machine.execStAccepted s
  | .stPlaydone => Sys2Proof.Machine.execStPlaydone s
  | .stReady => Sys2Proof.Machine.execStReady s
  | .cmdSetvolume x => Sys2Proof.Machine.execCmdSetvolume x s
  | .cmdQueryvolume => Sys2Proof.Machine.execCmdQueryvolume s
  | .cmd0B dh dl => Sys2Proof.Machine.execCmd0B dh dl s

end Sys2Proof.Machine
end

