-- ==== Sys2Proof/Machine/Phases.lean ====
section
/-! DEFINITION. The timed refinement of a SEND or QUERY: the phase walk of 10_state.md R20 with `BUSY`, `IDX` and `TMR`,
one byte, one phase change or one millisecond a step (log 15). -/

namespace Sys2Proof.Machine

/-- The transfer an instruction performs, with its command and data bytes; `none` for those that stay in `IDLE` (R20). -/
def transferOf : Instr → Option (Transfer × Byte × Byte × Byte)
  | .send cmd dh dl => some (.send, cmd, dh, dl)
  | .query cmd dh dl => some (.query, cmd, dh, dl)
  | .cmdSetvolume x =>
    some (.send, setVolumeWrapper.code, (wrapperData setVolumeWrapper x).1, (wrapperData setVolumeWrapper x).2)
  | .cmdQueryvolume => some (.query, 0x43#8, 0x00#8, 0x00#8)
  | .cmd0B dh dl => some (.send, 0x0B#8, dh, dl)
  | .status => none
  | .setvar _ => none
  | .setack _ => none
  | .settmo _ => none
  | .encStd _ _ _ _ => none
  | .encAlt _ _ _ _ => none
  | .encNock _ _ _ _ => none
  | .rxF10 _ _ _ _ _ _ => none
  | .rxF8 _ _ _ _ => none
  | .stError => none
  | .stAccepted => none
  | .stPlaydone => none
  | .stReady => none

/-- Acceptance (42_operations.md R90): the frame of the sampled variant and flag is loaded, `BUSY` becomes 1, and the
walk enters `TX` at position 0. -/
def beginTransfer (t : Transfer) (cmd dh dl : Byte) (s : State) : State :=
  { loadTx (buildFrame cmd dh dl s) s with busy := true, phase := .tx, idx := 0, cur := some t }

/-- The end of an operation: `BUSY` returns to 0 (R90), the walk to `IDLE`, and the host gets its answer. -/
def finish (a : Answer) (s : State) : State :=
  handBack a { s with busy := false, phase := .idle, cur := none }

/-- Phase `TX`: the next byte of `TXB` goes to the transport; after the last one a SEND ends and a QUERY goes on. -/
def txStep (s : State) : State :=
  if s.idx.val < frameLen s.variant then
    { txWrite [Memory.read s.txb s.idx.val] s with idx := s.idx + 1 }
  else
    match s.cur with
    | some .query => { s with phase := .flush }
    | _ => finish .silent s

/-- Phase `FLUSH`: pending input is discarded, and the timer is loaded as the walk enters `RX` (R20, R21). -/
def flushStep (s : State) : State :=
  { rxDiscard s with phase := .rx, idx := 0, tmr := s.timeout }

/-- The end of the bounded read, at `IDX = N` or `TMR = 0` (R21): of what is pending in this instant the bytes the block
still lacks are taken (43_status_config.md R98), `RXCNT` is the number of bytes taken, and no later byte is. -/
def closeRead (s : State) : State :=
  let left := frameLen s.variant - s.idx.val
  let R := s.pending.take left
  let k := Fin.ofNat 11 (s.idx.val + R.length)
  { s with rxb := Memory.writeBlock s.rxb s.idx.val R, pending := s.pending.drop left, idx := k, rxcnt := k,
           phase := .check }

/-- A pending byte is taken into `RXB[IDX]`. -/
def takeByte (b : Byte) (rest : Bytes) (s : State) : State :=
  { s with rxb := Memory.write s.rxb s.idx.val b, idx := s.idx + 1, pending := rest }

/-- The read ends as soon as `N` bytes are in (R21). -/
def closeIfFull (s : State) : State := if frameLen s.variant ≤ s.idx.val then closeRead s else s

/-- Phase `RX` (R21, 20_memory.md R42): the read ends with the timer at 0 or the block full; else a pending byte is taken,
or, with nothing pending, the walk waits. -/
def rxStep (s : State) : State :=
  if s.tmr = 0#16 then closeRead s
  else if frameLen s.variant ≤ s.idx.val then closeRead s
  else
    match s.pending with
    | [] => s
    | b :: rest => closeIfFull (takeByte b rest s)

/-- Phase `CHECK`: decode of the block read, and the write of `RESULT` and `FAIL` (R20, R86). -/
def checkStep (s : State) : State :=
  let d := judge (Memory.block s.rxb s.rxcnt.val) s
  finish (.result (resultOf d)) (recordOutcome d s)

/-- One step of a busy DFC. (`BUSY = 1` in `IDLE` is no state of a run; the step ends it.) -/
def phaseStep (s : State) : State :=
  match s.phase with
  | .idle => { s with busy := false, cur := none }
  | .tx => txStep s
  | .flush => flushStep s
  | .rx => rxStep s
  | .check => checkStep s

/-- One millisecond off the timer, which stops at 0. -/
def countDown (s : State) : State := { s with tmr := if s.tmr = 0#16 then 0#16 else s.tmr - 1#16 }

/-- One millisecond passes: it counts in phase `RX` alone, and the read ends in the instant the timer comes to 0
(60_exceptions.md R118, 10_state.md R21). -/
def tickStep (s : State) : State :=
  match s.phase with
  | .rx => if (countDown s).tmr = 0#16 then closeRead (countDown s) else countDown s
  | .idle => s
  | .tx => s
  | .flush => s
  | .check => s

/-- At any moment the transport may append any bytes to the pending input (20_memory.md R43): a free value (log 3). -/
def arriveFree (s : State) : State := { arrive (Config.arrival s.draws) s with draws := s.draws + 1 }

/-- A moment of a busy DFC in which the world outside scripts nothing: bytes may arrive, and then the walk takes its next
step; where it waits for a byte, a millisecond passes (log 3, log 15). -/
def freeStep (s : State) : State :=
  let s1 := arriveFree s
  if s1.phase = .rx ∧ s1.pending = [] then tickStep s1 else phaseStep s1

/-- A moment in which the DFC is idle and nothing is presented. -/
def idleStep (s : State) : State := arriveFree s

end Sys2Proof.Machine
end

