-- ==== Sys2Proof/Machine/HostPort.lean ====
section
/-! DEFINITION. The host's side (20_memory.md R35): the read views, the request port, and the acceptance of a presented
word (42_operations.md R90). -/

namespace Sys2Proof.Machine

/-- The position of a buffer view: `base + i`, `i = 0..9`. -/
def viewPosition (base : Nat) (index : Byte) : Option Nat :=
  if base ≤ index.toNat ∧ index.toNat < base + 10 then some (index.toNat - base) else none

/-- The content of a read view (R35); `none` for `REQ` and for an index outside the table. R35 says that the other bits
read 0 for `RESULT`, `FAIL` and `STATUSV`; that they read 0 in the remaining views too is a DESIGN CHOICE (log 24). -/
def viewContent (index : Byte) (s : State) : Option (BitVec 32) :=
  if index = 0x01#8 then some (s.result.setWidth 32)
  else if index = 0x02#8 then some ((failCode s.fail).setWidth 32)
  else if index = 0x03#8 then some ((statusWord s).setWidth 32)
  else if index = 0x04#8 then some ((variantCode s.variant).setWidth 32)
  else if index = 0x05#8 then some (s.ackEn.setWidth 32)
  else if index = 0x06#8 then some (s.timeout.setWidth 32)
  else if index = 0x07#8 then some (BitVec.ofNat 32 s.rxcnt.val)
  else if index = 0x08#8 then some (BitVec.ofNat 32 s.txlen.toNat)
  else if index = 0x09#8 then some (BitVec.ofNat 32 (if s.busy then 1 else 0))
  else
    match viewPosition 0x10 index with
    | some i => some ((Memory.read s.txb i).setWidth 32)
    | none =>
      match viewPosition 0x20 index with
      | some i => some ((Memory.read s.rxb i).setWidth 32)
      | none => none

/-- The bits of a view that R35 names: the mask outside which a view reads 0 (log 24). -/
def viewMask (index : Byte) : BitVec 32 :=
  if index = 0x01#8 ∨ index = 0x06#8 then 0xFFFF#32
  else if index = 0x02#8 then 0x7#32
  else if index = 0x03#8 then 0x7FF#32
  else if index = 0x04#8 then 0x3#32
  else if index = 0x05#8 ∨ index = 0x09#8 then 0x1#32
  else if index = 0x07#8 ∨ index = 0x08#8 then 0xF#32
  else 0xFF#32

/-- A read of the host port (R35): no side effect (R34). While `BUSY = 1` the content is a free value of the view's bits
(U14; log 14). -/
def busReadStep (index : Byte) (s : State) : Host.Outcome State Fault Refusal :=
  if index = 0x00#8 then .refused (.writeOnlyIndex index)
  else
    match viewContent index s with
    | none => .refused (.noSuchIndex index)
    | some w =>
      if s.busy then
        .next { handBack (.view (Config.busyView s.draws &&& viewMask index)) s with draws := s.draws + 1 }
      else .next (handBack (.view w) s)

/-- What becomes of a presented word the decoder rejects: a malformed block is judged like any other (41_deframer.md R79,
30_encoding.md R55; log 22); everything else has no meaning and is refused (R54). -/
def rejected (p : Encoded) (r : Reject) (s : State) : Host.Outcome State Fault Refusal :=
  match p with
  | .inFrame R => .next (handBack (.decoded (judge R s)) s)
  | .req32 _ => .refused (.undecodable r)
  | .outFrame _ _ => .refused (.undecodable r)
  | .code _ _ => .refused (.undecodable r)

/-- Accept a presented word and run it as one transaction (00_scope.md R6). -/
def acceptCall (p : Encoded) (s : State) : Host.Outcome State Fault Refusal :=
  match decode p with
  | .ok i => exec i s
  | .error r => rejected p r s

/-- Accept a presented word and begin its phase walk, if it has one (10_state.md R20). -/
def acceptStart (p : Encoded) (s : State) : Host.Outcome State Fault Refusal :=
  match decode p with
  | .ok i =>
    match transferOf i with
    | some (t, cmd, dh, dl) => .next (beginTransfer t cmd dh dl s)
    | none => exec i s
  | .error r => rejected p r s

/-- A write to an index other than `REQ` has no meaning (R35, U2). It is refused at once, busy or not: R90 holds request
words alone. DESIGN CHOICE, log 16. -/
def strayWrite (index : Byte) (s : State) : Host.Outcome State Fault Refusal :=
  match viewContent index s with
  | some _ => .refused (.readOnlyIndex index)
  | none => .refused (.noSuchIndex index)

/-- One step: the next event of the world outside, or, when there is none or it must wait for `BUSY = 0` (R90), one step
of the DFC itself. -/
def stepOnce (s : State) : Host.Outcome State Fault Refusal :=
  match s.inputs with
  | [] => .next (if s.busy then freeStep s else idleStep s)
  | .arrives A :: rest => .next (arrive A { s with inputs := rest })
  | .tick :: rest => .next (tickStep { s with inputs := rest })
  | .proceed :: rest =>
    .next (if s.busy then phaseStep { s with inputs := rest } else { s with inputs := rest })
  | .reset :: rest => .next (resetEvent { s with inputs := rest })
  | .busRead index :: rest => busReadStep index { s with inputs := rest }
  | .call p :: rest => if s.busy then .next (freeStep s) else acceptCall p { s with inputs := rest }
  | .start p :: rest => if s.busy then .next (freeStep s) else acceptStart p { s with inputs := rest }
  | .busWrite index w :: rest =>
    if index = 0x00#8 then
      if s.busy then .next (freeStep s) else acceptCall (.req32 w) { s with inputs := rest }
    else strayWrite index { s with inputs := rest }

/-- The state with a table word presented as the next call. The request port accepts it at once (`BUSY = 0`, R90). -/
def presentNext (nbits w : Nat) (s : State) : State :=
  match presentTableWord nbits w with
  | some p => { s with inputs := .call p :: s.inputs, busy := false }
  | none => s

end Sys2Proof.Machine
end

