-- ==== Sys2Proof/Machine/Step.lean ====
section
/-! DEFINITION. One step of the machine, and how a table word is placed where the next step takes its instruction. -/

namespace Sys2Proof.Machine

/-- One step (42_operations.md R90, 20_memory.md R37): see `stepOnce`. -/
def step (s : State) : Host.Outcome State Fault Refusal := stepOnce s

/-- `s` with a table word presented to the DFC next. The DFC fetches no instructions (10_state.md R20): the host supplies
them, and this stands for the host doing so (log 8). -/
def State.withFetchWord (s : State) (nbits w : Nat) : State := presentNext nbits w s

end Sys2Proof.Machine
end

