-- ==== Sys2Proof/Safety.lean ====
section
/-! DEFINITION. What every step keeps, and the terms in which the statements speak of runs: the invariant of the
registers, what the two levels of an operation share, and the bytes of a buffer. -/

namespace Sys2Proof.Machine

/-- The arcs of the phase walk (10_state.md R20): `IDLE, TX, IDLE` for a SEND, `IDLE, TX, FLUSH, RX, CHECK, IDLE` for a
QUERY, and staying where one is. -/
def phaseArc : Phase → Phase → Bool
  | .idle, .idle => true
  | .idle, .tx => true
  | .tx, .tx => true
  | .tx, .idle => true
  | .tx, .flush => true
  | .flush, .flush => true
  | .flush, .rx => true
  | .rx, .rx => true
  | .rx, .check => true
  | .check, .check => true
  | .check, .idle => true
  | _, _ => false

/-- The transfer a phase can belong to: none in `IDLE`, either in `TX`, a QUERY in the others (10_state.md R20). -/
def phaseTransfer : Phase → Option Transfer → Bool
  | .idle, none => true
  | .tx, some _ => true
  | .flush, some .query => true
  | .rx, some .query => true
  | .check, some .query => true
  | _, _ => false

/-- What every step keeps: both buffers are in canonical form (10_state.md R13, R14); `BUSY` is 1 exactly outside
`IDLE` (R19, R20); `cur` fits the phase; while an operation runs `TXLEN` is the frame length of the variant it sampled
(R10, R15), and `IDX` does not pass it (R20); in `RX` the block is not yet full, and the timer is not at 0 unless
`TIMEOUT` is (10_state.md R21); in `CHECK` the count is that of the read; a nonzero `RESULT` belongs to a QUERY that did
not fail (42_operations.md R87); a recorded reason other than `Incomplete` belongs to a whole block (10_state.md R16). -/
structure StateInv (s : State) : Prop where
  txb_wf : Memory.wf s.txb = true
  rxb_wf : Memory.wf s.rxb = true
  busy_iff : s.busy = true ↔ s.phase ≠ .idle
  cur_fits : phaseTransfer s.phase s.cur = true
  txlen_busy : s.busy = true → s.txlen = txLenOf s.variant
  idx_busy : s.busy = true → s.idx.val ≤ frameLen s.variant
  room_rx : s.phase = .rx → s.idx.val < frameLen s.variant
  timer_rx : s.phase = .rx → s.tmr = 0#16 → s.timeout = 0#16
  count_check : s.phase = .check → s.rxcnt = s.idx
  sentinel : s.result ≠ 0#16 → s.fail = none
  whole_block : ∀ r, s.fail = some r → r ≠ .incomplete → s.phase ≠ .check → s.rxcnt.val = 8 ∨ s.rxcnt.val = 10

/-- Two states that agree on everything the host and the line can tell: every register but the hidden `IDX` and `TMR`,
and the transport's streams. -/
structure SameVisible (s t : State) : Prop where
  variant : s.variant = t.variant
  ackEn : s.ackEn = t.ackEn
  timeout : s.timeout = t.timeout
  txb : s.txb = t.txb
  txlen : s.txlen = t.txlen
  rxb : s.rxb = t.rxb
  rxcnt : s.rxcnt = t.rxcnt
  result : s.result = t.result
  fail : s.fail = t.fail
  busy : s.busy = t.busy
  phase : s.phase = t.phase
  out : s.out = t.out
  pending : s.pending = t.pending
  cur : s.cur = t.cur
  inputs : s.inputs = t.inputs
  answer : s.answer = t.answer

/-- `k` steps of the machine, stopping at the first fault or refusal. -/
def run (k : Nat) (s : State) : Host.Outcome State Fault Refusal :=
  match k with
  | 0 => .next s
  | k + 1 =>
    match step s with
    | .next t => run k t
    | .fault r => .fault r
    | .refused r => .refused r

/-- The bytes `F` stand at positions 0, 1, … of the buffer. -/
def Holds (m : Memory) (F : Bytes) : Prop := ∀ i, i < F.length → Memory.read m i = blockByte F i

/-- A buffer after a block was written at position 0: the block there, and every later position as before. -/
def Wrote (before after : Memory) (F : Bytes) : Prop :=
  Holds after F ∧ ∀ i, F.length ≤ i → Memory.read after i = Memory.read before i

/-- Nothing from outside is scripted to come first: there is no event, or the first is a word that waits while `BUSY = 1`
(R90). -/
def Held : List Input → Prop
  | [] => True
  | .call _ :: _ => True
  | .start _ :: _ => True
  | .busWrite index _ :: _ => index = 0x00#8
  | .busRead _ :: _ => False
  | .arrives _ :: _ => False
  | .tick :: _ => False
  | .proceed :: _ => False
  | .reset :: _ => False

/-- The reserved request words, as 30_encoding.md R54 lists them: a reserved `op`, a must-be-zero bit set (the bits R53
shows as 0), or `SETVAR` with `v = 3`. -/
def ReservedWord (w : ReqWord) : Prop :=
  let op := w.toNat / 2 ^ 28
  op = 0x0 ∨ (0x7 ≤ op ∧ op ≤ 0xF) ∨
  ((op = 0x1 ∨ op = 0x2) ∧ w &&& 0x0F000000#32 ≠ 0#32) ∨
  (op = 0x3 ∧ w &&& 0x0FFFFFFF#32 ≠ 0#32) ∨
  (op = 0x4 ∧ (w &&& 0x0FFFFFFC#32 ≠ 0#32 ∨ w &&& 0x3#32 = 0x3#32)) ∨
  (op = 0x5 ∧ w &&& 0x0FFFFFFE#32 ≠ 0#32) ∨
  (op = 0x6 ∧ w &&& 0x0FFF0000#32 ≠ 0#32)

/-- The indices that have a read view (20_memory.md R35). -/
def ListedIndex (a : Byte) : Prop :=
  (0x01 ≤ a.toNat ∧ a.toNat ≤ 0x09) ∨ (0x10 ≤ a.toNat ∧ a.toNat ≤ 0x19) ∨ (0x20 ≤ a.toNat ∧ a.toNat ≤ 0x29)

end Sys2Proof.Machine
end

