-- ==== Sys2Proof/Certificates/Slice0/Obligations.lean ====
section
/-! DEFINITION. The statements about the DFC, each from the numbered rules of spec/ its docstring cites. -/

open Sys2Proof Sys2Proof.Machine

/-! ### Encoding -/

/-- Decoding an encoded well-formed instruction gives it back (30_encoding.md R45, R46, R53, R57), the word taken in the
form of its row (the model's reading, log 10; the argument beside a code byte, log 11). -/
def Obligations.DecodeInvertsEncode : Prop :=
  ∀ i : Instr, i.wellFormed = true → decode (encode i) = .ok i

/-- A presented word the decoder accepts is the encoding of a well-formed instruction: no presented word but that one
means it. A presented word is the bits with the form they come in (the model's reading, log 10), and of the codes with an
argument beside them the decoder rejects an argument the row does not take (the model's choice, log 11). -/
def Obligations.EncodeInvertsDecode : Prop :=
  ∀ (p : Encoded) (i : Instr), decode p = .ok i → i.wellFormed = true ∧ encode i = p

/-- Match and mask of the six `REQ32` rows, and no word beside them (R53, R54, R57). -/
def Obligations.RequestWordTable : Prop :=
  ∀ w : ReqWord,
    (w &&& 0xFF000000#32 = 0x10000000#32 →
      decode (.req32 w) = .ok (.send (w.extractLsb' 16 8) (w.extractLsb' 8 8) (w.extractLsb' 0 8))) ∧
    (w &&& 0xFF000000#32 = 0x20000000#32 →
      decode (.req32 w) = .ok (.query (w.extractLsb' 16 8) (w.extractLsb' 8 8) (w.extractLsb' 0 8))) ∧
    (w = 0x30000000#32 → decode (.req32 w) = .ok .status) ∧
    (w &&& 0xFFFFFFFC#32 = 0x40000000#32 → w.extractLsb' 0 2 ≠ 3#2 →
      decode (.req32 w) = .ok (.setvar (w.extractLsb' 0 2))) ∧
    (w &&& 0xFFFFFFFE#32 = 0x50000000#32 → decode (.req32 w) = .ok (.setack (w.extractLsb' 0 1))) ∧
    (w &&& 0xFFFF0000#32 = 0x60000000#32 → decode (.req32 w) = .ok (.settmo (w.extractLsb' 0 16))) ∧
    (ReservedWord w ↔ ∃ r, decode (.req32 w) = .error r)

/-- A step that takes a reserved request word refuses it (R54). -/
def Obligations.ReservedWordRefused : Prop :=
  ∀ (s : State) (w : ReqWord) (rest : List Input), s.busy = false → ReservedWord w →
    (s.inputs = .call (.req32 w) :: rest ∨ s.inputs = .start (.req32 w) :: rest ∨
      s.inputs = .busWrite 0x00#8 w :: rest) →
    ∃ r, step s = .refused (.undecodable r)

/-- A few words written out from 30_encoding.md and 95_test_vectors.md. -/
def Obligations.DecodesSpecWords : Prop :=
  decode (.req32 0x10060014#32) = .ok (.send 0x06#8 0x00#8 0x14#8) ∧
  decode (.req32 0x20430000#32) = .ok (.query 0x43#8 0x00#8 0x00#8) ∧
  decode (.req32 0x40000002#32) = .ok (.setvar 2#2) ∧
  decode (.req32 0x6000015E#32) = .ok (.settmo 350#16) ∧
  decode (.outFrame .std [0x7E#8, 0xFF#8, 0x06#8, 0x06#8, 0x00#8, 0x00#8, 0x14#8, 0xFE#8, 0xE1#8, 0xEF#8])
    = .ok (.encStd 0x06#8 0x00#8 0x14#8 0#1) ∧
  decode (.inFrame [0x7E#8, 0xFF#8, 0x06#8, 0x43#8, 0x00#8, 0x00#8, 0x1E#8, 0xEF#8])
    = .ok (.rxF8 0x43#8 0x00#8 0x00#8 0x1E#8) ∧
  decode (.code 0x3D#8 0) = .ok .stPlaydone

/-- A step that takes a presented word runs exec of the instruction it decodes to, on the state with that word taken; a
write to `REQ` is the same (10_state.md R20, 20_memory.md R35, 42_operations.md R90). -/
def Obligations.StepRunsDecodedInstruction : Prop :=
  ∀ (s : State) (p : Encoded) (rest : List Input) (i : Instr), s.busy = false → decode p = .ok i →
    (s.inputs = .call p :: rest ∨ ∃ w, p = .req32 w ∧ s.inputs = .busWrite 0x00#8 w :: rest) →
    step s = exec i { s with inputs := rest }

/-- A placed table word is the next instruction run. -/
def Obligations.PlacedWordRunsNext : Prop :=
  ∀ (s : State) (nbits w : Nat) (i : Instr), decodeTableWord nbits w = some i →
    step (s.withFetchWord nbits w) = exec i { s with busy := false }

/-- A step that starts a presented word in phases: a SEND or QUERY is accepted (its frame loaded, `BUSY = 1`, `PHASE = TX`
at position 0, nothing on the wire yet), and any other instruction stays in `IDLE` and runs as a call
(42_operations.md R90, 10_state.md R20; log 15). -/
def Obligations.StartBeginsWalk : Prop :=
  ∀ (s : State) (p : Encoded) (rest : List Input) (i : Instr), s.busy = false → decode p = .ok i →
    s.inputs = .start p :: rest →
    (transferOf i = none → step s = exec i { s with inputs := rest }) ∧
    ∀ x cmd dh dl, transferOf i = some (x, cmd, dh, dl) → ∃ m : Memory,
      Wrote s.txb m (encodeFrame cmd dh dl s.ackEn s.variant) ∧
      step s = .next { s with txb := m, txlen := (if s.variant = .nock then .eight else .ten), busy := true,
                              phase := .tx, idx := 0, cur := some x, inputs := rest }

/-! ### The framer -/

/-- `ENC.STD` (40_framer.md R61). -/
def Obligations.EncStdReturnsFrame : Prop :=
  ∀ (cmd dh dl : Byte) (ack : BitVec 1) (s : State),
    let S : Int := 261 + cmd.toNat + ack.toNat + dh.toNat + dl.toNat
    let ck : Half := BitVec.ofInt 16 (0 - S)
    exec (.encStd cmd dh dl ack) s =
      .next { s with answer := .frame [0x7E#8, 0xFF#8, 0x06#8, cmd, ack.setWidth 8, dh, dl,
        ck.extractLsb' 8 8, ck.extractLsb' 0 8, 0xEF#8] }

/-- `ENC.ALT` (R62). -/
def Obligations.EncAltReturnsFrame : Prop :=
  ∀ (cmd dh dl : Byte) (ack : BitVec 1) (s : State),
    let S : Int := 261 + cmd.toNat + ack.toNat + dh.toNat + dl.toNat
    let ck : Half := BitVec.ofInt 16 (0xFFFF - S + 1)
    exec (.encAlt cmd dh dl ack) s =
      .next { s with answer := .frame [0x7E#8, 0xFF#8, 0x06#8, cmd, ack.setWidth 8, dh, dl,
        ck.extractLsb' 8 8, ck.extractLsb' 0 8, 0xEF#8] }

/-- `ENC.NOCK` (R63). -/
def Obligations.EncNockReturnsFrame : Prop :=
  ∀ (cmd dh dl : Byte) (ack : BitVec 1) (s : State),
    exec (.encNock cmd dh dl ack) s =
      .next { s with answer := .frame [0x7E#8, 0xFF#8, 0x06#8, cmd, ack.setWidth 8, dh, dl, 0xEF#8] }

/-- `ENC.STD` and `ENC.ALT` give the same ten bytes (R66). -/
def Obligations.StdAndAltSameFrame : Prop :=
  ∀ (cmd dh dl : Byte) (ack : BitVec 1) (s : State), ∃ F : Bytes, F.length = 10 ∧
    exec (.encStd cmd dh dl ack) s = .next { s with answer := .frame F } ∧
    exec (.encAlt cmd dh dl ack) s = .next { s with answer := .frame F }

/-- Every argument tuple has a frame of the variant's length with the seven leading bytes of R60. -/
def Obligations.FrameHeadAndLength : Prop :=
  ∀ (cmd dh dl : Byte) (ack : BitVec 1) (v : Variant),
    (encodeFrame cmd dh dl ack v).length = (if v = .nock then 8 else 10) ∧
    (encodeFrame cmd dh dl ack v).take 7 = [0x7E#8, 0xFF#8, 0x06#8, cmd, ack.setWidth 8, dh, dl]

/-- The range of the checksum and what follows from it (R67). -/
def Obligations.ChecksumRange : Prop :=
  (∀ (cmd dh dl : Byte) (ack : BitVec 1) (v : Variant), v ≠ .nock →
    let F := encodeFrame cmd dh dl ack v
    let ck := be16 (blockByte F 7) (blockByte F 8)
    0xFBFD ≤ ck.toNat ∧ ck.toNat ≤ 0xFEFB ∧
    (blockByte F 7 = 0xFB#8 ∨ blockByte F 7 = 0xFC#8 ∨ blockByte F 7 = 0xFD#8 ∨ blockByte F 7 = 0xFE#8) ∧
    ∀ exp, decodeBlock (F.take 8) exp .nock = .fail .badEnd) ∧
  ∀ (b : Byte) (v : Variant), v ≠ .nock →
    ∃ (cmd dh dl : Byte) (ack : BitVec 1), blockByte (encodeFrame cmd dh dl ack v) 8 = b

/-- The checksum and the six summed bytes add up to 65536 exactly (R68). -/
def Obligations.ChecksumCompletesSum : Prop :=
  ∀ (cmd dh dl : Byte) (ack : BitVec 1) (v : Variant), v ≠ .nock →
    let F := encodeFrame cmd dh dl ack v
    (be16 (blockByte F 7) (blockByte F 8)).toNat + (blockByte F 1).toNat + (blockByte F 2).toNat +
      (blockByte F 3).toNat + (blockByte F 4).toNat + (blockByte F 5).toNat + (blockByte F 6).toNat = 65536

/-! ### The deframer -/

/-- The six checks in order, and the payload: what each outcome of `decode` means (41_deframer.md R70 to R77, R79). -/
def Obligations.DecodeNamesEarliestFailure : Prop :=
  ∀ (R : Bytes) (exp : Byte) (v : Variant),
    let N := if v = .nock then 8 else 10
    let p1 := R.length = N
    let p2 := p1 ∧ blockByte R 0 = 0x7E#8
    let p3 := p2 ∧ blockByte R 1 = 0xFF#8
    let p4 := p3 ∧ blockByte R 2 = 0x06#8
    let p5 := p4 ∧ blockByte R (N - 1) = 0xEF#8
    (decodeBlock R exp v = .fail .incomplete ↔ ¬ p1) ∧
    (decodeBlock R exp v = .fail .badStart ↔ p1 ∧ blockByte R 0 ≠ 0x7E#8) ∧
    (decodeBlock R exp v = .fail .badVersion ↔ p2 ∧ blockByte R 1 ≠ 0xFF#8) ∧
    (decodeBlock R exp v = .fail .badLength ↔ p3 ∧ blockByte R 2 ≠ 0x06#8) ∧
    (decodeBlock R exp v = .fail .badEnd ↔ p4 ∧ blockByte R (N - 1) ≠ 0xEF#8) ∧
    (decodeBlock R exp v = .fail .mismatch ↔ p5 ∧ blockByte R 3 ≠ exp) ∧
    ∀ payload, decodeBlock R exp v = .ok payload ↔
      p5 ∧ blockByte R 3 = exp ∧ payload.toNat = 256 * (blockByte R 5).toNat + (blockByte R 6).toNat

/-- `decode` does not read position 4, nor positions 7 and 8 of a ten-byte frame (R78). -/
def Obligations.DecodeIgnoresAckAndChecksum : Prop :=
  ∀ (R : Bytes) (exp : Byte) (v : Variant) (b : Byte) (i : Nat), i = 4 ∨ (v ≠ .nock ∧ (i = 7 ∨ i = 8)) →
    decodeBlock (R.set i b) exp v = decodeBlock R exp v

/-- `decode` of an encoded frame gives the payload back, in every variant (R80). -/
def Obligations.DecodeOfBuiltFrame : Prop :=
  ∀ (cmd dh dl : Byte) (ack : BitVec 1) (v : Variant),
    decodeBlock (encodeFrame cmd dh dl ack v) cmd v = .ok (be16 dh dl)

/-- Mixed variants (R81 a, b, d): the other format's block is `Incomplete`, the first eight bytes of a built ten-byte
frame are `BadEnd` under `NOCK`, and `STD` and `ALT` decode alike. -/
def Obligations.MixedVariants : Prop :=
  (∀ (F : Bytes) (exp : Byte), F.length = 10 → decodeBlock F exp .nock = .fail .incomplete) ∧
  (∀ (G : Bytes) (exp : Byte), G.length = 8 →
    decodeBlock G exp .std = .fail .incomplete ∧ decodeBlock G exp .alt = .fail .incomplete) ∧
  (∀ (cmd dh dl exp : Byte) (ack : BitVec 1),
    decodeBlock ((encodeFrame cmd dh dl ack .std).take 8) exp .nock = .fail .badEnd) ∧
  ∀ (R : Bytes) (exp : Byte), decodeBlock R exp .std = decodeBlock R exp .alt

/-- `RX.F10` completes in every state with the outcome of `decode` on its block. That the expected command and the
variant are `TXB[3]` and `VARIANT` is the model's reading (log 9). -/
def Obligations.RxF10Judged : Prop :=
  ∀ (cmd ack dh dl ckh ckl : Byte) (s : State),
    let d : Decoded :=
      if s.variant = .nock then .fail .incomplete
      else if cmd = Memory.read s.txb 3 then .ok (dh ++ dl)
      else .fail .mismatch
    exec (.rxF10 cmd ack dh dl ckh ckl) s = .next { s with answer := .decoded d }

/-- `RX.F8`, likewise (log 9). -/
def Obligations.RxF8Judged : Prop :=
  ∀ (cmd ack dh dl : Byte) (s : State),
    let d : Decoded :=
      if s.variant = .nock then
        if cmd = Memory.read s.txb 3 then .ok (dh ++ dl) else .fail .mismatch
      else .fail .incomplete
    exec (.rxF8 cmd ack dh dl) s = .next { s with answer := .decoded d }

/-- A presented block that no row of the table matches is judged all the same (41_deframer.md R79, 30_encoding.md R55): the
step hands back the outcome of `decode` and changes nothing else. The arguments are those of the RX rows (log 9, log 22). -/
def Obligations.MalformedBlockJudged : Prop :=
  ∀ (s : State) (R : Bytes) (r : Reject) (rest : List Input), s.busy = false → decode (.inFrame R) = .error r →
    (s.inputs = .call (.inFrame R) :: rest ∨ s.inputs = .start (.inFrame R) :: rest) →
    step s = .next { s with inputs := rest, answer := .decoded (decodeBlock R (Memory.read s.txb 3) s.variant) }

/-! ### SEND and QUERY -/

/-- `SEND` completes in every state: the frame of `VARIANT` and `ACK_EN` at `TXB[0..N-1]` and at the end of `T.out`, its
length in `TXLEN`, later positions of `TXB` and everything else as before (42_operations.md R85). -/
def Obligations.SendWritesFrameAndNothingElse : Prop :=
  ∀ (cmd dh dl : Byte) (s : State), ∃ m : Memory,
    let F := encodeFrame cmd dh dl s.ackEn s.variant
    Wrote s.txb m F ∧
    exec (.send cmd dh dl) s =
      .next { s with txb := m, txlen := (if s.variant = .nock then .eight else .ten), out := s.out ++ F,
                     answer := .silent }

/-- `QUERY` completes in every state, with whatever draw `A` comes next: the frame sent, the pending input replaced by
what is left of the draw, the block read in `RXB[0..k-1]` and `k` in `RXCNT`, and `RESULT` and `FAIL` from `decode` of the
block for the command sent (R86, R88); everything else as before. -/
def Obligations.QuerySendsReadsDecodes : Prop :=
  ∀ (cmd dh dl : Byte) (s : State), ∃ (mt mr : Memory) (k : Fin 11),
    let N := if s.variant = .nock then 8 else 10
    let F := encodeFrame cmd dh dl s.ackEn s.variant
    let A := nextDraw s
    let d := decodeBlock (A.take N) cmd s.variant
    let r : Half := match d with
      | .ok p => p
      | .fail _ => 0#16
    Wrote s.txb mt F ∧ Wrote s.rxb mr (A.take N) ∧ k.val = min N A.length ∧
    exec (.query cmd dh dl) s =
      .next { takeDraw s with
        txb := mt, txlen := (if s.variant = .nock then .eight else .ten), out := s.out ++ F, pending := A.drop N,
        rxb := mr, rxcnt := k, result := r,
        fail := (match d with
          | .ok _ => none
          | .fail x => some x),
        answer := .result r }

/-- The failure table of R110, told from the registers a QUERY leaves: each reason exactly when its cause holds, the
payload on success, the sentinel on every failure (R16, R87). -/
def Obligations.QueryReasonsFromRegisters : Prop :=
  ∀ (cmd dh dl : Byte) (s t : State), exec (.query cmd dh dl) s = .next t →
    let N := if s.variant = .nock then 8 else 10
    let rx := Memory.read t.rxb
    let p1 := t.rxcnt.val = N
    let p2 := p1 ∧ rx 0 = 0x7E#8
    let p3 := p2 ∧ rx 1 = 0xFF#8
    let p4 := p3 ∧ rx 2 = 0x06#8
    let p5 := p4 ∧ rx (N - 1) = 0xEF#8
    (t.fail = some .incomplete ↔ t.rxcnt.val < N) ∧
    (t.fail = some .badStart ↔ p1 ∧ rx 0 ≠ 0x7E#8) ∧
    (t.fail = some .badVersion ↔ p2 ∧ rx 1 ≠ 0xFF#8) ∧
    (t.fail = some .badLength ↔ p3 ∧ rx 2 ≠ 0x06#8) ∧
    (t.fail = some .badEnd ↔ p4 ∧ rx (N - 1) ≠ 0xEF#8) ∧
    (t.fail = some .mismatch ↔ p5 ∧ rx 3 ≠ Memory.read t.txb 3) ∧
    (t.fail = none ↔ p5 ∧ rx 3 = Memory.read t.txb 3) ∧
    (t.fail = none → t.result.toNat = 256 * (rx 5).toNat + (rx 6).toNat) ∧
    (t.fail ≠ none → t.result = 0x0000#16)

/-- What is pending when a QUERY starts cannot change its outcome: the discard drops it (20_memory.md R38, R41). -/
def Obligations.QueryIgnoresOldPending : Prop :=
  ∀ (cmd dh dl : Byte) (s : State) (A : Bytes),
    exec (.query cmd dh dl) { s with pending := A } = exec (.query cmd dh dl) s

/-! ### The status inspector and the configuration operations -/

/-- `STATUS` completes in every state, writes no register, and returns `{kind, detail}` of `RXB[3]` and `RXB[6]`; the view
`STATUSV` shows the same value at any idle time (43_status_config.md R95). -/
def Obligations.StatusReadsBufferedBytes : Prop :=
  ∀ s : State,
    let c := Memory.read s.rxb 3
    let w : BitVec 11 :=
      if c = 0x40#8 then 1#3 ++ Memory.read s.rxb 6
      else if c = 0x41#8 then 0x200#11
      else if c = 0x3D#8 then 0x300#11
      else if c = 0x3F#8 then 0x400#11
      else 0x000#11
    exec .status s = .next { s with answer := .status w } ∧
    ∀ rest, s.busy = false → s.inputs = .busRead 0x03#8 :: rest →
      step s = .next { s with inputs := rest, answer := .view (w.setWidth 32) }

/-- `SETVAR v` writes `VARIANT` alone (R96). -/
def Obligations.SetvarWritesVariant : Prop :=
  ∀ s : State,
    exec (.setvar 0#2) s = .next { s with variant := .std, answer := .silent } ∧
    exec (.setvar 1#2) s = .next { s with variant := .alt, answer := .silent } ∧
    exec (.setvar 2#2) s = .next { s with variant := .nock, answer := .silent }

/-- The term of the reserved `v = 3`, which no word decodes to, is refused by name: the model's choice (log 20) where the
spec reserves the encoding (30_encoding.md R54). -/
def Obligations.SetvarReservedRefused : Prop :=
  ∀ s : State, exec (.setvar 3#2) s = .refused .reservedVariant ∧ ∀ p, decode p ≠ .ok (.setvar 3#2)

/-- `SETACK a` writes `ACK_EN` alone (R97). -/
def Obligations.SetackWritesAckEn : Prop :=
  ∀ (a : BitVec 1) (s : State), exec (.setack a) s = .next { s with ackEn := a, answer := .silent }

/-- `SETTMO t` writes `TIMEOUT` alone, every `t` unclamped (R98). -/
def Obligations.SettmoWritesTimeout : Prop :=
  ∀ (t : Half) (s : State), exec (.settmo t) s = .next { s with timeout := t, answer := .silent }

/-- The four status-code rows complete in every state with the inspector's answer for their code (R95). That a row stands
for this answer is the model's reading (log 9). -/
def Obligations.StatusCodesAnswered : Prop :=
  ∀ s : State,
    exec .stError s = .next { s with answer := .status (1#3 ++ Memory.read s.rxb 6) } ∧
    exec .stAccepted s = .next { s with answer := .status 0x200#11 } ∧
    exec .stPlaydone s = .next { s with answer := .status 0x300#11 } ∧
    exec .stReady s = .next { s with answer := .status 0x400#11 }

/-- STATUS is the row of the byte buffered at `RXB[3]`, where there is one (R95, R50). -/
def Obligations.StatusIsRowOfBufferedByte : Prop :=
  ∀ s : State,
    (Memory.read s.rxb 3 = 0x40#8 → exec .status s = exec .stError s) ∧
    (Memory.read s.rxb 3 = 0x41#8 → exec .status s = exec .stAccepted s) ∧
    (Memory.read s.rxb 3 = 0x3D#8 → exec .status s = exec .stPlaydone s) ∧
    (Memory.read s.rxb 3 = 0x3F#8 → exec .status s = exec .stReady s)

/-! ### The wrappers -/

/-- `setVolume(x)` completes in every state for every integer: one SEND of 0x06 with `dh = 0x00` and the volume clamped
to 0..30 (44_wrapper_pseudo_ops.md R103, R100). -/
def Obligations.SetVolumeSendsClampedVolume : Prop :=
  ∀ (x : Int) (s : State), ∃ m : Memory,
    let v : Int := if x < 0 then 0 else if x > 30 then 30 else x
    let F := encodeFrame 0x06#8 0x00#8 (BitVec.ofNat 8 v.toNat) s.ackEn s.variant
    Wrote s.txb m F ∧
    exec (.cmdSetvolume x) s =
      .next { s with txb := m, txlen := (if s.variant = .nock then .eight else .ten), out := s.out ++ F,
                     answer := .silent }

/-- Volumes beyond a bound are the bound: `setVolume(31) == setVolume(30)` and every such call (R103, R107). -/
def Obligations.SetVolumeSaturates : Prop :=
  ∀ (x : Int) (s : State),
    (30 ≤ x → exec (.cmdSetvolume x) s = exec (.cmdSetvolume 30) s) ∧
    (x ≤ 0 → exec (.cmdSetvolume x) s = exec (.cmdSetvolume 0) s)

/-- Any wrapper over a range gives the same call for an argument beyond a bound as for the bound (R100, R101). -/
def Obligations.WrappersSaturate : Prop :=
  ∀ (w : Wrapper) (x : Int) (s : State), w.lo ≤ w.hi →
    (x ≤ w.lo → wrapperCall w x s = wrapperCall w w.lo s) ∧
    (w.hi ≤ x → wrapperCall w x s = wrapperCall w w.hi s) ∧
    (w.lo ≤ x → x ≤ w.hi → wrapperData w x = (w.dh x, w.dl x))

/-- The three clamping properties of R107: `setVolume(31)` is `setVolume(30)`, and `playTrack` saturates at 1 and 9999
whatever its code and the placement of its argument. -/
def Obligations.ClampingProperties : Prop :=
  ∀ (code : Byte) (dh dl : Int → Byte) (s : State),
    wrapperCall (playTrackWrapper code dh dl) 0 s = wrapperCall (playTrackWrapper code dh dl) 1 s ∧
    wrapperCall (playTrackWrapper code dh dl) 10000 s = wrapperCall (playTrackWrapper code dh dl) 9999 s ∧
    exec (.cmdSetvolume 31) s = exec (.cmdSetvolume 30) s

/-- The volume query completes in every state, and does what `QUERY 0x43, 0x00, 0x00` does (R104). -/
def Obligations.VolumeQueryIsQuery : Prop :=
  ∀ s : State, ∃ t : State,
    exec .cmdQueryvolume s = .next t ∧ exec (.query 0x43#8 0x00#8 0x00#8) s = .next t ∧
    t.out = s.out ++ encodeFrame 0x43#8 0x00#8 0x00#8 s.ackEn s.variant ∧ t.answer = .result t.result

/-- The code 0x0B completes in every state, framed and sent like any other (70_reset_and_hazards.md R139). That it is an
action with data bytes of the host's is the model's reading (log 12). -/
def Obligations.Code0BFramedLikeAnyOther : Prop :=
  ∀ (dh dl : Byte) (s : State), ∃ m : Memory,
    let F := encodeFrame 0x0B#8 dh dl s.ackEn s.variant
    Wrote s.txb m F ∧
    exec (.cmd0B dh dl) s =
      .next { s with txb := m, txlen := (if s.variant = .nock then .eight else .ten), out := s.out ++ F,
                     answer := .silent }

/-! ### Who writes what -/

/-- `RXB`, `RXCNT`, `RESULT`, `FAIL` and the pending input are changed by no instruction but a QUERY
(10_state.md R14, R16, R17, R18; 42_operations.md R85); the transport, which is no instruction, changes the pending input
too. That it holds of CMD.0B rests on its reading as an action (log 12). -/
def Obligations.OnlyQueryWritesReceiveSide : Prop :=
  ∀ (i : Instr) (s t : State), exec i s = .next t → (∀ cmd dh dl, i ≠ .query cmd dh dl) → i ≠ .cmdQueryvolume →
    t.rxb = s.rxb ∧ t.rxcnt = s.rxcnt ∧ t.result = s.result ∧ t.fail = s.fail ∧ t.pending = s.pending

/-- Each control register is written by its own operation alone (R10, R11, R12; 43_status_config.md R96 to R98). -/
def Obligations.ControlRegistersHaveOneWriter : Prop :=
  ∀ (i : Instr) (s t : State), exec i s = .next t →
    ((∀ v, i ≠ .setvar v) → t.variant = s.variant) ∧
    ((∀ a, i ≠ .setack a) → t.ackEn = s.ackEn) ∧
    ((∀ x, i ≠ .settmo x) → t.timeout = s.timeout)

/-- No instruction touches the sequencing state, and none but a SEND or QUERY writes `TXB`, `TXLEN` or the wire
(R6, R13, R15, R22). -/
def Obligations.OnlyTransfersWriteTransmitSide : Prop :=
  ∀ (i : Instr) (s t : State), exec i s = .next t →
    t.busy = s.busy ∧ t.phase = s.phase ∧ t.idx = s.idx ∧ t.tmr = s.tmr ∧ t.cur = s.cur ∧ t.inputs = s.inputs ∧
    (transferOf i = none → t.txb = s.txb ∧ t.txlen = s.txlen ∧ t.out = s.out)

/-! ### The machine -/

/-- What reset leaves (70_reset_and_hazards.md R125): the values of 10_state.md; `TIMEOUT` is the open parameter, an
unknown constant (log 4). -/
def Obligations.ResetValues : Prop :=
  let s := State.reset
  s.variant = .std ∧ s.ackEn = 0#1 ∧ s.timeout = Config.timeoutResetMs ∧
  (∀ a, Memory.read s.txb a = 0x00#8) ∧ (∀ a, Memory.read s.rxb a = 0x00#8) ∧
  s.txlen = .zero ∧ s.rxcnt = 0 ∧ s.result = 0x0000#16 ∧ s.fail = none ∧ s.busy = false ∧
  s.phase = .idle ∧ s.idx = 0 ∧ s.tmr = 0#16

/-- The reset input, at any moment: every register takes its reset value, an operation in progress is abandoned, and
`T.out` and `T.pending` do not change (R125). -/
def Obligations.ResetInputKeepsStreams : Prop :=
  ∀ (s : State) (rest : List Input), s.inputs = .reset :: rest → ∃ t, step s = .next t ∧
    t.out = s.out ∧ t.pending = s.pending ∧ t.inputs = rest ∧
    t.variant = .std ∧ t.ackEn = 0#1 ∧ t.timeout = Config.timeoutResetMs ∧
    (∀ a, Memory.read t.txb a = 0x00#8) ∧ (∀ a, Memory.read t.rxb a = 0x00#8) ∧
    t.txlen = .zero ∧ t.rxcnt = 0 ∧ t.result = 0x0000#16 ∧ t.fail = none ∧ t.busy = false ∧
    t.phase = .idle ∧ t.idx = 0 ∧ t.tmr = 0#16

/-- The invariant holds at reset. -/
def Obligations.InvAtReset : Prop := StateInv State.reset

/-- Every step keeps the invariant: canonical buffers, `BUSY` with the phase walk, `TXLEN` and `IDX` within the frame, the
sentinel, the whole block behind a recorded reason. -/
def Obligations.InvKeptByEveryStep : Prop :=
  ∀ s t : State, StateInv s → step s = .next t → StateInv t

/-- No step faults: there is no trap (60_exceptions.md R112, R113). -/
def Obligations.StepNeverFaults : Prop :=
  ∀ (s : State) (r : Fault), step s ≠ .fault r

/-- A step is refused only for a usage-precondition violation (R116): a presented word that means nothing, which no inbound
block is (R55, R79; log 22), or an access outside the register map (log 16). -/
def Obligations.RefusalsAreUsageViolations : Prop :=
  ∀ (s : State) (r : Refusal), step s = .refused r →
    (∃ (p : Encoded) (e : Reject) (rest : List Input), decode p = .error e ∧ r = .undecodable e ∧ s.busy = false ∧
      (∀ R, p ≠ .inFrame R) ∧
      (s.inputs = .call p :: rest ∨ s.inputs = .start p :: rest ∨
        ∃ w, p = .req32 w ∧ s.inputs = .busWrite 0x00#8 w :: rest)) ∨
    (∃ (a : Byte) (rest : List Input), s.inputs = .busRead a :: rest ∧
      (r = .writeOnlyIndex a ∧ a = 0x00#8 ∨ r = .noSuchIndex a ∧ a ≠ 0x00#8 ∧ ¬ ListedIndex a)) ∨
    ∃ (a : Byte) (w : ReqWord) (rest : List Input), s.inputs = .busWrite a w :: rest ∧ a ≠ 0x00#8 ∧
      (r = .readOnlyIndex a ∧ ListedIndex a ∨ r = .noSuchIndex a ∧ ¬ ListedIndex a)

/-- What has been written to the wire stays written: a step only appends to `T.out` (10_state.md R22). -/
def Obligations.OutOnlyGrows : Prop :=
  ∀ s t : State, step s = .next t → ∃ F : Bytes, t.out = s.out ++ F

/-- The read views (20_memory.md R35) and their lack of side effects (R34). Idle: the content, and 0 in the bits R35 does
not name (for the views it does not say so of, the model's choice, log 24). While `BUSY = 1`: some value (U14; log 14) of
the view's own bits. An index stands for the address (log 23). -/
def Obligations.ReadViewsShowRegisters : Prop :=
  ∀ (s : State) (rest : List Input),
    let read (a : Byte) (w : BitVec 32) : Prop :=
      step { s with inputs := .busRead a :: rest } = .next { s with inputs := rest, answer := .view w }
    (s.busy = false →
    read 0x01#8 (s.result.setWidth 32) ∧
    read 0x02#8 (match s.fail with
      | none => 0#32
      | some .incomplete => 1#32
      | some .badStart => 2#32
      | some .badVersion => 3#32
      | some .badLength => 4#32
      | some .badEnd => 5#32
      | some .mismatch => 6#32) ∧
    (∃ w : BitVec 11, exec .status s = .next { s with answer := .status w } ∧ read 0x03#8 (w.setWidth 32)) ∧
    read 0x04#8 (match s.variant with
      | .std => 0#32
      | .alt => 1#32
      | .nock => 2#32) ∧
    read 0x05#8 (s.ackEn.setWidth 32) ∧
    read 0x06#8 (s.timeout.setWidth 32) ∧
    read 0x07#8 (BitVec.ofNat 32 s.rxcnt.val) ∧
    read 0x08#8 (match s.txlen with
      | .zero => 0#32
      | .eight => 8#32
      | .ten => 10#32) ∧
    read 0x09#8 0#32 ∧
    ∀ i, i < 10 →
      read (BitVec.ofNat 8 (0x10 + i)) ((Memory.read s.txb i).setWidth 32) ∧
      read (BitVec.ofNat 8 (0x20 + i)) ((Memory.read s.rxb i).setWidth 32)) ∧
    (s.busy = true → ∀ a, ListedIndex a → ∃ (w : BitVec 32) (n : Nat),
      step { s with inputs := .busRead a :: rest } = .next { s with inputs := rest, answer := .view w, draws := n } ∧
      (a = 0x01#8 ∨ a = 0x06#8 → w.toNat < 2 ^ 16) ∧ (a = 0x02#8 → w.toNat < 2 ^ 3) ∧
      (a = 0x03#8 → w.toNat < 2 ^ 11) ∧ (a = 0x04#8 → w.toNat < 2 ^ 2) ∧ (a = 0x05#8 ∨ a = 0x09#8 → w.toNat < 2) ∧
      (a = 0x07#8 ∨ a = 0x08#8 → w.toNat < 2 ^ 4) ∧ (0x10 ≤ a.toNat → w.toNat < 2 ^ 8))

/-- Accesses R35 does not give are refused, at once and by name, busy or not (R35, U2; the model's choice, log 16): a read of
`REQ`, a write of anything else, any index outside the table. -/
def Obligations.StrayAccessesRefused : Prop :=
  ∀ (s : State) (rest : List Input) (a : Byte) (w : ReqWord),
    (s.inputs = .busRead a :: rest → a = 0x00#8 → step s = .refused (.writeOnlyIndex a)) ∧
    (s.inputs = .busRead a :: rest → a ≠ 0x00#8 → ¬ ListedIndex a → step s = .refused (.noSuchIndex a)) ∧
    (s.inputs = .busWrite a w :: rest → ListedIndex a → step s = .refused (.readOnlyIndex a)) ∧
    (s.inputs = .busWrite a w :: rest → a ≠ 0x00#8 → ¬ ListedIndex a → step s = .refused (.noSuchIndex a))

/-- While `BUSY = 1` a presented word, or one written to `REQ`, is held: not accepted, not dropped (42_operations.md R90). -/
def Obligations.RequestHeldWhileBusy : Prop :=
  ∀ (s : State), s.busy = true →
    (∃ p rest, s.inputs = .call p :: rest ∨ s.inputs = .start p :: rest ∨
      ∃ w, s.inputs = .busWrite 0x00#8 w :: rest) →
    ∃ t, step s = .next t ∧ t.inputs = s.inputs ∧ t.txb = s.txb ∧ t.variant = s.variant ∧ t.ackEn = s.ackEn ∧
      t.timeout = s.timeout

/-- Bytes that arrive, at any moment, change the pending input and nothing else (20_memory.md R43). -/
def Obligations.ArrivalChangesPendingOnly : Prop :=
  ∀ (s : State) (A : Bytes) (rest : List Input), s.inputs = .arrives A :: rest →
    step s = .next { s with inputs := rest, pending := s.pending ++ A }

/-- An idle DFC with nothing presented waits: no register changes, whatever the line delivers (10_state.md R20, R23). -/
def Obligations.IdleChangesNoRegister : Prop :=
  ∀ s : State, s.busy = false → s.inputs = [] → ∃ (A : Bytes) (n : Nat),
    step s = .next { s with pending := s.pending ++ A, draws := n }

/-- The phase walk follows R20: no arc but those of `IDLE, TX, IDLE` and `IDLE, TX, FLUSH, RX, CHECK, IDLE`, the former for
a SEND and the latter for a QUERY (reset apart). -/
def Obligations.PhaseWalkFollowsArcs : Prop :=
  ∀ s t : State, StateInv s → step s = .next t → s.inputs.head? ≠ some .reset →
    phaseArc s.phase t.phase = true ∧
    (s.phase = .tx → t.phase = .idle → s.cur = some .send) ∧
    (s.phase = .tx → t.phase = .flush → s.cur = some .query)

/-- `TMR` is loaded with `TIMEOUT` as the walk enters `RX`, never rises there, and stands still in every other phase; the
read ends when `IDX = N` or `TMR = 0`, in the step in which that comes about, and takes no byte after it
(10_state.md R21, 60_exceptions.md R118), reset apart. With `TIMEOUT = 0` the timer is 0 as the read begins. That `TMR`
keeps what it held when the walk ends, and the grain of a step, are the model's reading (log 15). -/
def Obligations.TimerRunsOnlyInRx : Prop :=
  ∀ s t : State, StateInv s → step s = .next t → s.inputs.head? ≠ some .reset →
    (s.phase ≠ .rx → t.phase = .rx → t.tmr = s.timeout) ∧
    (s.phase = .rx → t.tmr = s.tmr ∨ t.tmr.toNat + 1 = s.tmr.toNat) ∧
    (s.phase ≠ .rx → t.phase ≠ .rx → t.tmr = s.tmr) ∧
    (s.phase = .rx → t.phase ≠ .rx → t.idx.val = (if s.variant = .nock then 8 else 10) ∨ t.tmr = 0#16) ∧
    (t.phase = .rx → t.idx.val < (if t.variant = .nock then 8 else 10) ∧ (t.tmr = 0#16 → t.timeout = 0#16)) ∧
    (s.phase = .check → t.rxb = s.rxb ∧ t.rxcnt = s.rxcnt)

/-- The buffers have positions 0 to 9 and no others; a byte stored there reads back and no other byte changes
(20_memory.md R30, R33). -/
def Obligations.BufferPositions : Prop :=
  ∀ (sp : Space) (a : Nat) (v : Byte) (s : State),
    (a ≤ 9 → ∃ t b, memRead sp a s = .ok b ∧ memWrite sp a v s = .ok t ∧ memRead sp a t = .ok v ∧
      ∀ sp' a', (sp', a') ≠ (sp, a) → memRead sp' a' t = memRead sp' a' s) ∧
    (10 ≤ a → memRead sp a s = .error (.noSuchPosition sp a) ∧ memWrite sp a v s = .error (.noSuchPosition sp a))

/-! ### The two levels -/

/-- An action run in phases (SEND, and the wrappers that expand to it) is the action of the transaction level: `N + 2` steps
(acceptance, `N` bytes, the end) leave what exec leaves, but for the hidden `IDX` and `TMR` and for bytes `A` that arrived
meanwhile (00_scope.md R6, 10_state.md R20, 20_memory.md R43). The count of steps is the model's grain (log 15). -/
def Obligations.PhasedSendRefinesSend : Prop :=
  ∀ (s : State) (p : Encoded) (rest : List Input) (i : Instr) (cmd dh dl : Byte), StateInv s → s.busy = false →
    s.inputs = .start p :: rest → Held rest → decode p = .ok i → transferOf i = some (.send, cmd, dh, dl) →
    ∃ (t u : State) (A : Bytes), run ((if s.variant = .nock then 8 else 10) + 2) s = .next t ∧
      exec i { s with inputs := rest } = .next u ∧ SameVisible t (arrive A u)

/-- A query run in phases (QUERY, and the volume query) ends, and is the query of the transaction level for some draw `A`,
what the line delivered until the read ended, and for bytes `B` that arrived after it (R6, 20_memory.md R42, R43). What the
line delivers unscripted is a free value (log 3), and the grain of the walk is the model's (log 15). -/
def Obligations.PhasedQueryRefinesQuery : Prop :=
  ∀ (s : State) (p : Encoded) (rest : List Input) (i : Instr) (cmd dh dl : Byte), StateInv s → s.busy = false →
    s.inputs = .start p :: rest → Held rest → decode p = .ok i → transferOf i = some (.query, cmd, dh, dl) →
    ∃ (k : Nat) (t u : State) (A B : Bytes), run k s = .next t ∧ t.busy = false ∧
      exec i { s with inputs := rest, line := [A] } = .next u ∧ SameVisible t (arrive B u)

/-- Every operation ends: from any state of a run, with nothing more scripted from outside, `BUSY` returns to 0
(60_exceptions.md R118, 42_operations.md R90). It rests on a transport that accepts every byte (R136; log 21). -/
def Obligations.EveryOperationEnds : Prop :=
  ∀ s : State, StateInv s → Held s.inputs → ∃ (k : Nat) (t : State), run k s = .next t ∧ t.busy = false
end

