-- ==== Sys2Proof/Laws/Codec.lean ====
section
/-! SUPPORT. The small laws of the codec: byte order, frame lengths, the bytes of a built frame, the checksum as a number. -/

namespace Sys2Proof.Machine

theorem frameLen_le (v : Variant) : frameLen v ≤ 10 := by cases v <;> decide

theorem toNat_txLenOf (v : Variant) : (txLenOf v).toNat = frameLen v := by cases v <;> rfl

theorem length_encodeFrame (cmd dh dl : Byte) (ack : BitVec 1) (v : Variant) :
    (encodeFrame cmd dh dl ack v).length = frameLen v := by cases v <;> rfl

@[simp] theorem blockByte_encodeFrame_cmd (cmd dh dl : Byte) (ack : BitVec 1) (v : Variant) :
    blockByte (encodeFrame cmd dh dl ack v) 3 = cmd := rfl

theorem toNat_be16 (h l : Byte) : (be16 h l).toNat = 256 * h.toNat + l.toNat := by
  have e : (be16 h l).toNat = h.toNat <<< 8 ||| l.toNat := BitVec.toNat_append h l
  rw [e, ← Nat.shiftLeft_add_eq_or_of_lt l.isLt, Nat.shiftLeft_eq]
  omega

theorem toNat_hi8 (w : Half) : (hi8 w).toNat = w.toNat / 256 := by
  have := w.isLt
  simp [hi8, Nat.shiftRight_eq_div_pow]
  omega

theorem toNat_lo8 (w : Half) : (lo8 w).toNat = w.toNat % 256 := by simp [lo8]

@[simp] theorem hi8_be16 (h l : Byte) : hi8 (be16 h l) = h := by
  apply BitVec.eq_of_toNat_eq
  have := h.isLt; have := l.isLt
  rw [toNat_hi8, toNat_be16]
  omega

@[simp] theorem lo8_be16 (h l : Byte) : lo8 (be16 h l) = l := by
  apply BitVec.eq_of_toNat_eq
  have := h.isLt; have := l.isLt
  rw [toNat_lo8, toNat_be16]
  omega

/-- A 16-bit number is its two bytes, the high one first (20_memory.md R31). -/
@[simp] theorem be16_hi8_lo8 (w : Half) : be16 (hi8 w) (lo8 w) = w := by
  apply BitVec.eq_of_toNat_eq
  rw [toNat_be16, toNat_hi8, toNat_lo8]
  omega

/-- The range of the checksum sum (40_framer.md R64). -/
theorem checksumSum_bounds (cmd dh dl : Byte) (ack : BitVec 1) :
    261 ≤ checksumSum cmd dh dl ack ∧ checksumSum cmd dh dl ack ≤ 1027 := by
  have := cmd.isLt; have := dh.isLt; have := dl.isLt; have := ack.isLt
  unfold checksumSum
  omega

/-- `trunc16` of a number already in range is that number. -/
theorem toNat_trunc16 (n : Nat) (h : n < 65536) : (trunc16 (n : Int)).toNat = n := by
  simp [trunc16]
  omega

theorem toNat_checksumStd (cmd dh dl : Byte) (ack : BitVec 1) :
    ((checksumStd cmd dh dl ack).toNat : Int) = 65536 - checksumSum cmd dh dl ack := by
  have := checksumSum_bounds cmd dh dl ack
  simp only [checksumStd, trunc16, BitVec.toNat_ofInt]
  omega

theorem toNat_checksumAlt (cmd dh dl : Byte) (ack : BitVec 1) :
    ((checksumAlt cmd dh dl ack).toNat : Int) = 65536 - checksumSum cmd dh dl ack := by
  have := checksumSum_bounds cmd dh dl ack
  simp only [checksumAlt, trunc16, BitVec.toNat_ofInt]
  omega

theorem variantOfCode_code (v : Variant) : variantOfCode (variantCode v) = some v := by cases v <;> rfl

/-- The clamped argument lies in its range (44_wrapper_pseudo_ops.md R100). -/
theorem clamp_bounds (x lo hi : Int) (h : lo ≤ hi) : lo ≤ clamp x lo hi ∧ clamp x lo hi ≤ hi := by
  unfold clamp
  split
  · omega
  · split <;> omega

/-- A failing structural check is never the correlation test. -/
theorem shapeFailure_ne_mismatch (R : Bytes) (v : Variant) : shapeFailure R v ≠ some .mismatch := by
  unfold shapeFailure
  repeat' split
  all_goals simp

/-- A failure other than `Incomplete` is of a block of the frame length. -/
theorem length_of_decode_fail (R : Bytes) (exp : Byte) (v : Variant) (r : Failure)
    (h : decodeBlock R exp v = .fail r) (hr : r ≠ .incomplete) : R.length = frameLen v := by
  by_contra hl
  rw [decodeBlock, shapeFailure, if_pos hl] at h
  exact hr (by simpa using h.symm)

end Sys2Proof.Machine
end

