-- ==== Sys2Proof/Laws/Memory.lean ====
section
/-! SUPPORT. The laws of the buffers: a read after a write, the block writes, the canonical form, and that canonical
buffers with equal bytes are equal. -/

namespace Sys2Proof.Machine

@[simp] theorem Memory.read_nil (a : Nat) : Memory.read [] a = 0x00#8 := rfl

theorem Memory.read_cons (c : Host.Cell) (m : Memory) (a : Nat) :
    Memory.read (c :: m) a = if c.1 = a then c.2 else Memory.read m a := rfl

/-- A position no cell names reads 0x00. -/
theorem Memory.read_eq_zero (m : Memory) (a : Nat) (h : ∀ c ∈ m, c.1 ≠ a) : Memory.read m a = 0x00#8 := by
  induction m with
  | nil => rfl
  | cons c m ih =>
    rw [Memory.read_cons, if_neg (h c (by simp))]
    exact ih fun d hd => h d (by simp [hd])

theorem Memory.read_filter_self (m : Memory) (a : Nat) : Memory.read (m.filter (fun c => c.1 != a)) a = 0x00#8 :=
  Memory.read_eq_zero _ _ fun c hc => by simpa using (List.mem_filter.mp hc).2

theorem Memory.read_filter_ne (m : Memory) {a b : Nat} (h : b ≠ a) :
    Memory.read (m.filter (fun c => c.1 != a)) b = Memory.read m b := by
  induction m with
  | nil => rfl
  | cons c m ih =>
    by_cases hc : c.1 = a
    · have hb : ¬ c.1 = b := fun e => h (e ▸ hc)
      rw [List.filter_cons_of_neg (by simp [hc]), ih, Memory.read_cons, if_neg hb]
    · rw [List.filter_cons_of_pos (by simp [hc]), Memory.read_cons, Memory.read_cons, ih]

theorem Memory.read_insert_ne (m : Memory) {a b : Nat} (v : Byte) (h : b ≠ a) :
    Memory.read (Memory.insert a v m) b = Memory.read m b := by
  induction m with
  | nil => simp [Memory.insert, Memory.read_cons, Ne.symm h]
  | cons c m ih =>
    unfold Memory.insert
    split
    · rw [Memory.read_cons, if_neg (Ne.symm h)]
    · rw [Memory.read_cons, Memory.read_cons, ih]

theorem Memory.read_insert_self (m : Memory) (a : Nat) (v : Byte) (h : ∀ c ∈ m, c.1 ≠ a) :
    Memory.read (Memory.insert a v m) a = v := by
  induction m with
  | nil => simp [Memory.insert, Memory.read_cons]
  | cons c m ih =>
    unfold Memory.insert
    split
    · simp [Memory.read_cons]
    · rw [Memory.read_cons, if_neg (h c (by simp))]
      exact ih fun d hd => h d (by simp [hd])

/-- A read after a write: the byte written there, every other position as before. For every buffer, canonical or not. -/
@[simp] theorem Memory.read_write (m : Memory) (a b : Nat) (v : Byte) :
    Memory.read (Memory.write m a v) b = if b = a then v else Memory.read m b := by
  unfold Memory.write
  by_cases hb : b = a
  · subst hb
    by_cases hv : v = 0x00#8
    · simp only [hv, if_true, Memory.read_filter_self]
    · rw [if_neg hv, if_pos rfl]
      exact Memory.read_insert_self _ _ _ fun c hc => by simpa using (List.mem_filter.mp hc).2
  · by_cases hv : v = 0x00#8
    · simp only [hv, if_true, if_neg hb, Memory.read_filter_ne m hb]
    · simp only [if_neg hv, if_neg hb, Memory.read_insert_ne _ v hb, Memory.read_filter_ne m hb]

/-- A read after a block write: the block's byte inside it, every other position as before. -/
theorem Memory.read_writeBlock (m : Memory) (a : Nat) (R : Bytes) (b : Nat) :
    Memory.read (Memory.writeBlock m a R) b =
      if a ≤ b ∧ b < a + R.length then blockByte R (b - a) else Memory.read m b := by
  induction R generalizing m a with
  | nil => simp [Memory.writeBlock]
  | cons v R ih =>
    rw [Memory.writeBlock, ih, Memory.read_write]
    rcases Nat.lt_trichotomy b a with h | h | h
    · rw [if_neg (by omega), if_neg (by omega), if_neg (by omega)]
    · subst h
      rw [if_neg (by omega), if_pos rfl, if_pos (by simp)]
      simp [blockByte]
    · by_cases hb : b < a + 1 + R.length
      · rw [if_pos (by omega), if_pos (by simp; omega)]
        have e : b - a = (b - (a + 1)) + 1 := by omega
        rw [e]
        simp [blockByte]
      · rw [if_neg (by omega), if_neg (by omega), if_neg (by simp; omega)]

/-- The canonical form, unfolded once. -/
theorem Memory.wf_cons (c : Host.Cell) (m : Memory) :
    Memory.wf (c :: m) = true ↔
      c.1 < 10 ∧ c.2 ≠ 0x00#8 ∧ (∀ d ∈ m, c.1 < d.1) ∧ Memory.wf m = true := by
  simp [Memory.wf, and_assoc]

theorem Memory.wf_filter (m : Memory) (p : Host.Cell → Bool) (h : Memory.wf m = true) :
    Memory.wf (m.filter p) = true := by
  induction m with
  | nil => rfl
  | cons c m ih =>
    obtain ⟨h1, h2, h3, h4⟩ := (Memory.wf_cons c m).mp h
    by_cases hp : p c = true
    · rw [List.filter_cons_of_pos hp]
      exact (Memory.wf_cons _ _).mpr ⟨h1, h2, fun d hd => h3 d (List.mem_filter.mp hd).1, ih h4⟩
    · rw [List.filter_cons_of_neg hp]
      exact ih h4

theorem Memory.mem_insert (a : Nat) (v : Byte) (m : Memory) (c : Host.Cell) :
    c ∈ Memory.insert a v m ↔ c = (a, v) ∨ c ∈ m := by
  induction m with
  | nil => simp [Memory.insert]
  | cons d m ih =>
    unfold Memory.insert
    split
    · simp
    · simp only [List.mem_cons, ih]
      tauto

theorem Memory.wf_insert (a : Nat) (v : Byte) (m : Memory) (h : Memory.wf m = true) (ha : a < 10)
    (hv : v ≠ 0x00#8) (hm : ∀ c ∈ m, c.1 ≠ a) : Memory.wf (Memory.insert a v m) = true := by
  induction m with
  | nil => exact (Memory.wf_cons _ _).mpr ⟨ha, hv, by simp, rfl⟩
  | cons c m ih =>
    obtain ⟨h1, h2, h3, h4⟩ := (Memory.wf_cons c m).mp h
    unfold Memory.insert
    split
    · rename_i hlt
      refine (Memory.wf_cons _ _).mpr ⟨ha, hv, fun d hd => ?_, h⟩
      rcases List.mem_cons.mp hd with rfl | hd
      · exact hlt
      · exact Nat.lt_trans hlt (h3 d hd)
    · rename_i hge
      have hne := hm c (by simp)
      refine (Memory.wf_cons _ _).mpr ⟨h1, h2, fun d hd => ?_, ih h4 fun d hd => hm d (by simp [hd])⟩
      rcases (Memory.mem_insert a v m d).mp hd with rfl | hd
      · exact lt_of_le_of_ne (not_lt.mp hge) hne
      · exact h3 d hd

/-- A write to an existing position keeps the canonical form. -/
theorem Memory.wf_write (m : Memory) (a : Nat) (v : Byte) (h : Memory.wf m = true) (ha : a < 10) :
    Memory.wf (Memory.write m a v) = true := by
  unfold Memory.write
  by_cases hv : v = 0x00#8
  · simp only [hv, if_true]
    exact Memory.wf_filter _ _ h
  · simp only [if_neg hv]
    exact Memory.wf_insert _ _ _ (Memory.wf_filter _ _ h) ha hv fun c hc => by
      simpa using (List.mem_filter.mp hc).2

/-- A block write inside the buffer keeps the canonical form. -/
theorem Memory.wf_writeBlock (m : Memory) (a : Nat) (R : Bytes) (h : Memory.wf m = true) (ha : a + R.length ≤ 10) :
    Memory.wf (Memory.writeBlock m a R) = true := by
  induction R generalizing m a with
  | nil => exact h
  | cons v R ih =>
    simp only [List.length_cons] at ha
    exact ih _ _ (Memory.wf_write m a v h (by omega)) (by omega)

/-- A position below every cell of a canonical buffer reads 0x00. -/
theorem Memory.read_below (m : Memory) (a : Nat) (h : ∀ c ∈ m, a < c.1) : Memory.read m a = 0x00#8 :=
  Memory.read_eq_zero m a fun c hc => Nat.ne_of_gt (h c hc)

/-- Canonical buffers with the same bytes are the same list. -/
theorem Memory.ext_read (m n : Memory) (hm : Memory.wf m = true) (hn : Memory.wf n = true)
    (h : ∀ a, Memory.read m a = Memory.read n a) : m = n := by
  induction m generalizing n with
  | nil =>
    cases n with
    | nil => rfl
    | cons d n =>
      obtain ⟨_, h2, _, _⟩ := (Memory.wf_cons d n).mp hn
      have := h d.1
      rw [Memory.read_nil, Memory.read_cons, if_pos rfl] at this
      exact absurd this.symm h2
  | cons c m ih =>
    obtain ⟨_, c2, c3, c4⟩ := (Memory.wf_cons c m).mp hm
    cases n with
    | nil =>
      have := h c.1
      rw [Memory.read_nil, Memory.read_cons, if_pos rfl] at this
      exact absurd this c2
    | cons d n =>
      obtain ⟨_, d2, d3, d4⟩ := (Memory.wf_cons d n).mp hn
      have key : c.1 = d.1 := by
        rcases Nat.lt_trichotomy c.1 d.1 with hlt | heq | hgt
        · have := h c.1
          rw [Memory.read_cons, if_pos rfl, Memory.read_below] at this
          · exact absurd this c2
          · intro e he
            rcases List.mem_cons.mp he with rfl | he
            · exact hlt
            · exact Nat.lt_trans hlt (d3 e he)
        · exact heq
        · have := h d.1
          rw [Memory.read_cons (c := d), if_pos rfl, Memory.read_below] at this
          · exact absurd this.symm d2
          · intro e he
            rcases List.mem_cons.mp he with rfl | he
            · exact hgt
            · exact Nat.lt_trans hgt (c3 e he)
      have hval : c.2 = d.2 := by
        have := h c.1
        rwa [Memory.read_cons, if_pos rfl, Memory.read_cons, if_pos key.symm] at this
      have hcd : c = d := Prod.ext key hval
      subst hcd
      congr 1
      refine ih n c4 d4 fun a => ?_
      by_cases ha : c.1 = a
      · subst ha
        rw [Memory.read_below m _ c3, Memory.read_below n _ d3]
      · have := h a
        rwa [Memory.read_cons, if_neg ha, Memory.read_cons, if_neg ha] at this

/-- A position outside the buffer reads 0x00 of a canonical one. -/
theorem Memory.read_outside (m : Memory) (a : Nat) (h : Memory.wf m = true) (ha : 10 ≤ a) :
    Memory.read m a = 0x00#8 := by
  induction m with
  | nil => rfl
  | cons c m ih =>
    obtain ⟨h1, _, _, h4⟩ := (Memory.wf_cons c m).mp h
    rw [Memory.read_cons, if_neg (by omega), ih h4]

theorem Memory.length_block (m : Memory) (n : Nat) : (Memory.block m n).length = n := by simp [Memory.block]

theorem Memory.blockByte_block (m : Memory) (n i : Nat) (h : i < n) :
    blockByte (Memory.block m n) i = Memory.read m i := by
  simp [Memory.block, blockByte, List.getD, List.getElem?_map, List.getElem?_range h]

/-- The block read back from where it was written is the block written. -/
theorem Memory.block_writeBlock (m : Memory) (R : Bytes) :
    Memory.block (Memory.writeBlock m 0 R) R.length = R := by
  apply List.ext_getElem
  · exact Memory.length_block _ _
  · intro i h1 h2
    simp only [Memory.block, List.getElem_map, List.getElem_range, Memory.read_writeBlock]
    simp [h2, blockByte, List.getD]

end Sys2Proof.Machine
end

