-- ==== Sys2Proof/Laws/State.lean ====
section
/-! SUPPORT. One lemma per field per named update of the state, each true by rfl, so that no proof unfolds a record
update. -/

namespace Sys2Proof.Machine

@[simp] theorem txWrite_variant (B : Bytes) (s : State) : (txWrite B s).variant = s.variant := rfl

@[simp] theorem txWrite_ackEn (B : Bytes) (s : State) : (txWrite B s).ackEn = s.ackEn := rfl

@[simp] theorem txWrite_timeout (B : Bytes) (s : State) : (txWrite B s).timeout = s.timeout := rfl

@[simp] theorem txWrite_txb (B : Bytes) (s : State) : (txWrite B s).txb = s.txb := rfl

@[simp] theorem txWrite_txlen (B : Bytes) (s : State) : (txWrite B s).txlen = s.txlen := rfl

@[simp] theorem txWrite_rxb (B : Bytes) (s : State) : (txWrite B s).rxb = s.rxb := rfl

@[simp] theorem txWrite_rxcnt (B : Bytes) (s : State) : (txWrite B s).rxcnt = s.rxcnt := rfl

@[simp] theorem txWrite_result (B : Bytes) (s : State) : (txWrite B s).result = s.result := rfl

@[simp] theorem txWrite_fail (B : Bytes) (s : State) : (txWrite B s).fail = s.fail := rfl

@[simp] theorem txWrite_busy (B : Bytes) (s : State) : (txWrite B s).busy = s.busy := rfl

@[simp] theorem txWrite_phase (B : Bytes) (s : State) : (txWrite B s).phase = s.phase := rfl

@[simp] theorem txWrite_idx (B : Bytes) (s : State) : (txWrite B s).idx = s.idx := rfl

@[simp] theorem txWrite_tmr (B : Bytes) (s : State) : (txWrite B s).tmr = s.tmr := rfl

@[simp] theorem txWrite_out (B : Bytes) (s : State) : (txWrite B s).out = s.out ++ B := rfl

@[simp] theorem txWrite_pending (B : Bytes) (s : State) : (txWrite B s).pending = s.pending := rfl

@[simp] theorem txWrite_cur (B : Bytes) (s : State) : (txWrite B s).cur = s.cur := rfl

@[simp] theorem txWrite_inputs (B : Bytes) (s : State) : (txWrite B s).inputs = s.inputs := rfl

@[simp] theorem txWrite_line (B : Bytes) (s : State) : (txWrite B s).line = s.line := rfl

@[simp] theorem txWrite_answer (B : Bytes) (s : State) : (txWrite B s).answer = s.answer := rfl

@[simp] theorem txWrite_draws (B : Bytes) (s : State) : (txWrite B s).draws = s.draws := rfl

@[simp] theorem rxDiscard_variant (s : State) : (rxDiscard s).variant = s.variant := rfl

@[simp] theorem rxDiscard_ackEn (s : State) : (rxDiscard s).ackEn = s.ackEn := rfl

@[simp] theorem rxDiscard_timeout (s : State) : (rxDiscard s).timeout = s.timeout := rfl

@[simp] theorem rxDiscard_txb (s : State) : (rxDiscard s).txb = s.txb := rfl

@[simp] theorem rxDiscard_txlen (s : State) : (rxDiscard s).txlen = s.txlen := rfl

@[simp] theorem rxDiscard_rxb (s : State) : (rxDiscard s).rxb = s.rxb := rfl

@[simp] theorem rxDiscard_rxcnt (s : State) : (rxDiscard s).rxcnt = s.rxcnt := rfl

@[simp] theorem rxDiscard_result (s : State) : (rxDiscard s).result = s.result := rfl

@[simp] theorem rxDiscard_fail (s : State) : (rxDiscard s).fail = s.fail := rfl

@[simp] theorem rxDiscard_busy (s : State) : (rxDiscard s).busy = s.busy := rfl

@[simp] theorem rxDiscard_phase (s : State) : (rxDiscard s).phase = s.phase := rfl

@[simp] theorem rxDiscard_idx (s : State) : (rxDiscard s).idx = s.idx := rfl

@[simp] theorem rxDiscard_tmr (s : State) : (rxDiscard s).tmr = s.tmr := rfl

@[simp] theorem rxDiscard_out (s : State) : (rxDiscard s).out = s.out := rfl

@[simp] theorem rxDiscard_pending (s : State) : (rxDiscard s).pending = [] := rfl

@[simp] theorem rxDiscard_cur (s : State) : (rxDiscard s).cur = s.cur := rfl

@[simp] theorem rxDiscard_inputs (s : State) : (rxDiscard s).inputs = s.inputs := rfl

@[simp] theorem rxDiscard_line (s : State) : (rxDiscard s).line = s.line := rfl

@[simp] theorem rxDiscard_answer (s : State) : (rxDiscard s).answer = s.answer := rfl

@[simp] theorem rxDiscard_draws (s : State) : (rxDiscard s).draws = s.draws := rfl

@[simp] theorem arrive_variant (A : Bytes) (s : State) : (arrive A s).variant = s.variant := rfl

@[simp] theorem arrive_ackEn (A : Bytes) (s : State) : (arrive A s).ackEn = s.ackEn := rfl

@[simp] theorem arrive_timeout (A : Bytes) (s : State) : (arrive A s).timeout = s.timeout := rfl

@[simp] theorem arrive_txb (A : Bytes) (s : State) : (arrive A s).txb = s.txb := rfl

@[simp] theorem arrive_txlen (A : Bytes) (s : State) : (arrive A s).txlen = s.txlen := rfl

@[simp] theorem arrive_rxb (A : Bytes) (s : State) : (arrive A s).rxb = s.rxb := rfl

@[simp] theorem arrive_rxcnt (A : Bytes) (s : State) : (arrive A s).rxcnt = s.rxcnt := rfl

@[simp] theorem arrive_result (A : Bytes) (s : State) : (arrive A s).result = s.result := rfl

@[simp] theorem arrive_fail (A : Bytes) (s : State) : (arrive A s).fail = s.fail := rfl

@[simp] theorem arrive_busy (A : Bytes) (s : State) : (arrive A s).busy = s.busy := rfl

@[simp] theorem arrive_phase (A : Bytes) (s : State) : (arrive A s).phase = s.phase := rfl

@[simp] theorem arrive_idx (A : Bytes) (s : State) : (arrive A s).idx = s.idx := rfl

@[simp] theorem arrive_tmr (A : Bytes) (s : State) : (arrive A s).tmr = s.tmr := rfl

@[simp] theorem arrive_out (A : Bytes) (s : State) : (arrive A s).out = s.out := rfl

@[simp] theorem arrive_pending (A : Bytes) (s : State) : (arrive A s).pending = s.pending ++ A := rfl

@[simp] theorem arrive_cur (A : Bytes) (s : State) : (arrive A s).cur = s.cur := rfl

@[simp] theorem arrive_inputs (A : Bytes) (s : State) : (arrive A s).inputs = s.inputs := rfl

@[simp] theorem arrive_line (A : Bytes) (s : State) : (arrive A s).line = s.line := rfl

@[simp] theorem arrive_answer (A : Bytes) (s : State) : (arrive A s).answer = s.answer := rfl

@[simp] theorem arrive_draws (A : Bytes) (s : State) : (arrive A s).draws = s.draws := rfl

@[simp] theorem takeDraw_variant (s : State) : (takeDraw s).variant = s.variant := rfl

@[simp] theorem takeDraw_ackEn (s : State) : (takeDraw s).ackEn = s.ackEn := rfl

@[simp] theorem takeDraw_timeout (s : State) : (takeDraw s).timeout = s.timeout := rfl

@[simp] theorem takeDraw_txb (s : State) : (takeDraw s).txb = s.txb := rfl

@[simp] theorem takeDraw_txlen (s : State) : (takeDraw s).txlen = s.txlen := rfl

@[simp] theorem takeDraw_rxb (s : State) : (takeDraw s).rxb = s.rxb := rfl

@[simp] theorem takeDraw_rxcnt (s : State) : (takeDraw s).rxcnt = s.rxcnt := rfl

@[simp] theorem takeDraw_result (s : State) : (takeDraw s).result = s.result := rfl

@[simp] theorem takeDraw_fail (s : State) : (takeDraw s).fail = s.fail := rfl

@[simp] theorem takeDraw_busy (s : State) : (takeDraw s).busy = s.busy := rfl

@[simp] theorem takeDraw_phase (s : State) : (takeDraw s).phase = s.phase := rfl

@[simp] theorem takeDraw_idx (s : State) : (takeDraw s).idx = s.idx := rfl

@[simp] theorem takeDraw_tmr (s : State) : (takeDraw s).tmr = s.tmr := rfl

@[simp] theorem takeDraw_out (s : State) : (takeDraw s).out = s.out := rfl

@[simp] theorem takeDraw_pending (s : State) : (takeDraw s).pending = s.pending := rfl

@[simp] theorem takeDraw_cur (s : State) : (takeDraw s).cur = s.cur := rfl

@[simp] theorem takeDraw_inputs (s : State) : (takeDraw s).inputs = s.inputs := rfl

@[simp] theorem takeDraw_line (s : State) : (takeDraw s).line = s.line.tail := rfl

@[simp] theorem takeDraw_answer (s : State) : (takeDraw s).answer = s.answer := rfl

@[simp] theorem takeDraw_draws (s : State) : (takeDraw s).draws = if s.line.isEmpty then s.draws + 1 else s.draws := rfl

@[simp] theorem handBack_variant (a : Answer) (s : State) : (handBack a s).variant = s.variant := rfl

@[simp] theorem handBack_ackEn (a : Answer) (s : State) : (handBack a s).ackEn = s.ackEn := rfl

@[simp] theorem handBack_timeout (a : Answer) (s : State) : (handBack a s).timeout = s.timeout := rfl

@[simp] theorem handBack_txb (a : Answer) (s : State) : (handBack a s).txb = s.txb := rfl

@[simp] theorem handBack_txlen (a : Answer) (s : State) : (handBack a s).txlen = s.txlen := rfl

@[simp] theorem handBack_rxb (a : Answer) (s : State) : (handBack a s).rxb = s.rxb := rfl

@[simp] theorem handBack_rxcnt (a : Answer) (s : State) : (handBack a s).rxcnt = s.rxcnt := rfl

@[simp] theorem handBack_result (a : Answer) (s : State) : (handBack a s).result = s.result := rfl

@[simp] theorem handBack_fail (a : Answer) (s : State) : (handBack a s).fail = s.fail := rfl

@[simp] theorem handBack_busy (a : Answer) (s : State) : (handBack a s).busy = s.busy := rfl

@[simp] theorem handBack_phase (a : Answer) (s : State) : (handBack a s).phase = s.phase := rfl

@[simp] theorem handBack_idx (a : Answer) (s : State) : (handBack a s).idx = s.idx := rfl

@[simp] theorem handBack_tmr (a : Answer) (s : State) : (handBack a s).tmr = s.tmr := rfl

@[simp] theorem handBack_out (a : Answer) (s : State) : (handBack a s).out = s.out := rfl

@[simp] theorem handBack_pending (a : Answer) (s : State) : (handBack a s).pending = s.pending := rfl

@[simp] theorem handBack_cur (a : Answer) (s : State) : (handBack a s).cur = s.cur := rfl

@[simp] theorem handBack_inputs (a : Answer) (s : State) : (handBack a s).inputs = s.inputs := rfl

@[simp] theorem handBack_line (a : Answer) (s : State) : (handBack a s).line = s.line := rfl

@[simp] theorem handBack_answer (a : Answer) (s : State) : (handBack a s).answer = a := rfl

@[simp] theorem handBack_draws (a : Answer) (s : State) : (handBack a s).draws = s.draws := rfl

@[simp] theorem loadTx_variant (G : Bytes) (s : State) : (loadTx G s).variant = s.variant := rfl

@[simp] theorem loadTx_ackEn (G : Bytes) (s : State) : (loadTx G s).ackEn = s.ackEn := rfl

@[simp] theorem loadTx_timeout (G : Bytes) (s : State) : (loadTx G s).timeout = s.timeout := rfl

@[simp] theorem loadTx_txb (G : Bytes) (s : State) : (loadTx G s).txb = Memory.writeBlock s.txb 0 G := rfl

@[simp] theorem loadTx_txlen (G : Bytes) (s : State) : (loadTx G s).txlen = txLenOf s.variant := rfl

@[simp] theorem loadTx_rxb (G : Bytes) (s : State) : (loadTx G s).rxb = s.rxb := rfl

@[simp] theorem loadTx_rxcnt (G : Bytes) (s : State) : (loadTx G s).rxcnt = s.rxcnt := rfl

@[simp] theorem loadTx_result (G : Bytes) (s : State) : (loadTx G s).result = s.result := rfl

@[simp] theorem loadTx_fail (G : Bytes) (s : State) : (loadTx G s).fail = s.fail := rfl

@[simp] theorem loadTx_busy (G : Bytes) (s : State) : (loadTx G s).busy = s.busy := rfl

@[simp] theorem loadTx_phase (G : Bytes) (s : State) : (loadTx G s).phase = s.phase := rfl

@[simp] theorem loadTx_idx (G : Bytes) (s : State) : (loadTx G s).idx = s.idx := rfl

@[simp] theorem loadTx_tmr (G : Bytes) (s : State) : (loadTx G s).tmr = s.tmr := rfl

@[simp] theorem loadTx_out (G : Bytes) (s : State) : (loadTx G s).out = s.out := rfl

@[simp] theorem loadTx_pending (G : Bytes) (s : State) : (loadTx G s).pending = s.pending := rfl

@[simp] theorem loadTx_cur (G : Bytes) (s : State) : (loadTx G s).cur = s.cur := rfl

@[simp] theorem loadTx_inputs (G : Bytes) (s : State) : (loadTx G s).inputs = s.inputs := rfl

@[simp] theorem loadTx_line (G : Bytes) (s : State) : (loadTx G s).line = s.line := rfl

@[simp] theorem loadTx_answer (G : Bytes) (s : State) : (loadTx G s).answer = s.answer := rfl

@[simp] theorem loadTx_draws (G : Bytes) (s : State) : (loadTx G s).draws = s.draws := rfl

@[simp] theorem storeRx_variant (R : Bytes) (s : State) : (storeRx R s).variant = s.variant := rfl

@[simp] theorem storeRx_ackEn (R : Bytes) (s : State) : (storeRx R s).ackEn = s.ackEn := rfl

@[simp] theorem storeRx_timeout (R : Bytes) (s : State) : (storeRx R s).timeout = s.timeout := rfl

@[simp] theorem storeRx_txb (R : Bytes) (s : State) : (storeRx R s).txb = s.txb := rfl

@[simp] theorem storeRx_txlen (R : Bytes) (s : State) : (storeRx R s).txlen = s.txlen := rfl

@[simp] theorem storeRx_rxb (R : Bytes) (s : State) : (storeRx R s).rxb = Memory.writeBlock s.rxb 0 R := rfl

@[simp] theorem storeRx_rxcnt (R : Bytes) (s : State) : (storeRx R s).rxcnt = Fin.ofNat 11 R.length := rfl

@[simp] theorem storeRx_result (R : Bytes) (s : State) : (storeRx R s).result = s.result := rfl

@[simp] theorem storeRx_fail (R : Bytes) (s : State) : (storeRx R s).fail = s.fail := rfl

@[simp] theorem storeRx_busy (R : Bytes) (s : State) : (storeRx R s).busy = s.busy := rfl

@[simp] theorem storeRx_phase (R : Bytes) (s : State) : (storeRx R s).phase = s.phase := rfl

@[simp] theorem storeRx_idx (R : Bytes) (s : State) : (storeRx R s).idx = s.idx := rfl

@[simp] theorem storeRx_tmr (R : Bytes) (s : State) : (storeRx R s).tmr = s.tmr := rfl

@[simp] theorem storeRx_out (R : Bytes) (s : State) : (storeRx R s).out = s.out := rfl

@[simp] theorem storeRx_pending (R : Bytes) (s : State) : (storeRx R s).pending = s.pending := rfl

@[simp] theorem storeRx_cur (R : Bytes) (s : State) : (storeRx R s).cur = s.cur := rfl

@[simp] theorem storeRx_inputs (R : Bytes) (s : State) : (storeRx R s).inputs = s.inputs := rfl

@[simp] theorem storeRx_line (R : Bytes) (s : State) : (storeRx R s).line = s.line := rfl

@[simp] theorem storeRx_answer (R : Bytes) (s : State) : (storeRx R s).answer = s.answer := rfl

@[simp] theorem storeRx_draws (R : Bytes) (s : State) : (storeRx R s).draws = s.draws := rfl

@[simp] theorem recordOutcome_variant (d : Decoded) (s : State) : (recordOutcome d s).variant = s.variant := rfl

@[simp] theorem recordOutcome_ackEn (d : Decoded) (s : State) : (recordOutcome d s).ackEn = s.ackEn := rfl

@[simp] theorem recordOutcome_timeout (d : Decoded) (s : State) : (recordOutcome d s).timeout = s.timeout := rfl

@[simp] theorem recordOutcome_txb (d : Decoded) (s : State) : (recordOutcome d s).txb = s.txb := rfl

@[simp] theorem recordOutcome_txlen (d : Decoded) (s : State) : (recordOutcome d s).txlen = s.txlen := rfl

@[simp] theorem recordOutcome_rxb (d : Decoded) (s : State) : (recordOutcome d s).rxb = s.rxb := rfl

@[simp] theorem recordOutcome_rxcnt (d : Decoded) (s : State) : (recordOutcome d s).rxcnt = s.rxcnt := rfl

@[simp] theorem recordOutcome_result (d : Decoded) (s : State) : (recordOutcome d s).result = resultOf d := rfl

@[simp] theorem recordOutcome_fail (d : Decoded) (s : State) : (recordOutcome d s).fail = failOf d := rfl

@[simp] theorem recordOutcome_busy (d : Decoded) (s : State) : (recordOutcome d s).busy = s.busy := rfl

@[simp] theorem recordOutcome_phase (d : Decoded) (s : State) : (recordOutcome d s).phase = s.phase := rfl

@[simp] theorem recordOutcome_idx (d : Decoded) (s : State) : (recordOutcome d s).idx = s.idx := rfl

@[simp] theorem recordOutcome_tmr (d : Decoded) (s : State) : (recordOutcome d s).tmr = s.tmr := rfl

@[simp] theorem recordOutcome_out (d : Decoded) (s : State) : (recordOutcome d s).out = s.out := rfl

@[simp] theorem recordOutcome_pending (d : Decoded) (s : State) : (recordOutcome d s).pending = s.pending := rfl

@[simp] theorem recordOutcome_cur (d : Decoded) (s : State) : (recordOutcome d s).cur = s.cur := rfl

@[simp] theorem recordOutcome_inputs (d : Decoded) (s : State) : (recordOutcome d s).inputs = s.inputs := rfl

@[simp] theorem recordOutcome_line (d : Decoded) (s : State) : (recordOutcome d s).line = s.line := rfl

@[simp] theorem recordOutcome_answer (d : Decoded) (s : State) : (recordOutcome d s).answer = s.answer := rfl

@[simp] theorem recordOutcome_draws (d : Decoded) (s : State) : (recordOutcome d s).draws = s.draws := rfl

@[simp] theorem transmit_variant (cmd dh dl : Byte) (s : State) : (transmit cmd dh dl s).variant = s.variant := rfl

@[simp] theorem transmit_ackEn (cmd dh dl : Byte) (s : State) : (transmit cmd dh dl s).ackEn = s.ackEn := rfl

@[simp] theorem transmit_timeout (cmd dh dl : Byte) (s : State) : (transmit cmd dh dl s).timeout = s.timeout := rfl

@[simp] theorem transmit_txb (cmd dh dl : Byte) (s : State) : (transmit cmd dh dl s).txb = Memory.writeBlock s.txb 0 (buildFrame cmd dh dl s) := rfl

@[simp] theorem transmit_txlen (cmd dh dl : Byte) (s : State) : (transmit cmd dh dl s).txlen = txLenOf s.variant := rfl

@[simp] theorem transmit_rxb (cmd dh dl : Byte) (s : State) : (transmit cmd dh dl s).rxb = s.rxb := rfl

@[simp] theorem transmit_rxcnt (cmd dh dl : Byte) (s : State) : (transmit cmd dh dl s).rxcnt = s.rxcnt := rfl

@[simp] theorem transmit_result (cmd dh dl : Byte) (s : State) : (transmit cmd dh dl s).result = s.result := rfl

@[simp] theorem transmit_fail (cmd dh dl : Byte) (s : State) : (transmit cmd dh dl s).fail = s.fail := rfl

@[simp] theorem transmit_busy (cmd dh dl : Byte) (s : State) : (transmit cmd dh dl s).busy = s.busy := rfl

@[simp] theorem transmit_phase (cmd dh dl : Byte) (s : State) : (transmit cmd dh dl s).phase = s.phase := rfl

@[simp] theorem transmit_idx (cmd dh dl : Byte) (s : State) : (transmit cmd dh dl s).idx = s.idx := rfl

@[simp] theorem transmit_tmr (cmd dh dl : Byte) (s : State) : (transmit cmd dh dl s).tmr = s.tmr := rfl

@[simp] theorem transmit_out (cmd dh dl : Byte) (s : State) : (transmit cmd dh dl s).out = s.out ++ buildFrame cmd dh dl s := rfl

@[simp] theorem transmit_pending (cmd dh dl : Byte) (s : State) : (transmit cmd dh dl s).pending = s.pending := rfl

@[simp] theorem transmit_cur (cmd dh dl : Byte) (s : State) : (transmit cmd dh dl s).cur = s.cur := rfl

@[simp] theorem transmit_inputs (cmd dh dl : Byte) (s : State) : (transmit cmd dh dl s).inputs = s.inputs := rfl

@[simp] theorem transmit_line (cmd dh dl : Byte) (s : State) : (transmit cmd dh dl s).line = s.line := rfl

@[simp] theorem transmit_answer (cmd dh dl : Byte) (s : State) : (transmit cmd dh dl s).answer = s.answer := rfl

@[simp] theorem transmit_draws (cmd dh dl : Byte) (s : State) : (transmit cmd dh dl s).draws = s.draws := rfl

@[simp] theorem sendOp_variant (cmd dh dl : Byte) (s : State) : (sendOp cmd dh dl s).variant = s.variant := rfl

@[simp] theorem sendOp_ackEn (cmd dh dl : Byte) (s : State) : (sendOp cmd dh dl s).ackEn = s.ackEn := rfl

@[simp] theorem sendOp_timeout (cmd dh dl : Byte) (s : State) : (sendOp cmd dh dl s).timeout = s.timeout := rfl

@[simp] theorem sendOp_txb (cmd dh dl : Byte) (s : State) : (sendOp cmd dh dl s).txb = Memory.writeBlock s.txb 0 (buildFrame cmd dh dl s) := rfl

@[simp] theorem sendOp_txlen (cmd dh dl : Byte) (s : State) : (sendOp cmd dh dl s).txlen = txLenOf s.variant := rfl

@[simp] theorem sendOp_rxb (cmd dh dl : Byte) (s : State) : (sendOp cmd dh dl s).rxb = s.rxb := rfl

@[simp] theorem sendOp_rxcnt (cmd dh dl : Byte) (s : State) : (sendOp cmd dh dl s).rxcnt = s.rxcnt := rfl

@[simp] theorem sendOp_result (cmd dh dl : Byte) (s : State) : (sendOp cmd dh dl s).result = s.result := rfl

@[simp] theorem sendOp_fail (cmd dh dl : Byte) (s : State) : (sendOp cmd dh dl s).fail = s.fail := rfl

@[simp] theorem sendOp_busy (cmd dh dl : Byte) (s : State) : (sendOp cmd dh dl s).busy = s.busy := rfl

@[simp] theorem sendOp_phase (cmd dh dl : Byte) (s : State) : (sendOp cmd dh dl s).phase = s.phase := rfl

@[simp] theorem sendOp_idx (cmd dh dl : Byte) (s : State) : (sendOp cmd dh dl s).idx = s.idx := rfl

@[simp] theorem sendOp_tmr (cmd dh dl : Byte) (s : State) : (sendOp cmd dh dl s).tmr = s.tmr := rfl

@[simp] theorem sendOp_out (cmd dh dl : Byte) (s : State) : (sendOp cmd dh dl s).out = s.out ++ buildFrame cmd dh dl s := rfl

@[simp] theorem sendOp_pending (cmd dh dl : Byte) (s : State) : (sendOp cmd dh dl s).pending = s.pending := rfl

@[simp] theorem sendOp_cur (cmd dh dl : Byte) (s : State) : (sendOp cmd dh dl s).cur = s.cur := rfl

@[simp] theorem sendOp_inputs (cmd dh dl : Byte) (s : State) : (sendOp cmd dh dl s).inputs = s.inputs := rfl

@[simp] theorem sendOp_line (cmd dh dl : Byte) (s : State) : (sendOp cmd dh dl s).line = s.line := rfl

@[simp] theorem sendOp_answer (cmd dh dl : Byte) (s : State) : (sendOp cmd dh dl s).answer = .silent := rfl

@[simp] theorem sendOp_draws (cmd dh dl : Byte) (s : State) : (sendOp cmd dh dl s).draws = s.draws := rfl

@[simp] theorem finish_variant (a : Answer) (s : State) : (finish a s).variant = s.variant := rfl

@[simp] theorem finish_ackEn (a : Answer) (s : State) : (finish a s).ackEn = s.ackEn := rfl

@[simp] theorem finish_timeout (a : Answer) (s : State) : (finish a s).timeout = s.timeout := rfl

@[simp] theorem finish_txb (a : Answer) (s : State) : (finish a s).txb = s.txb := rfl

@[simp] theorem finish_txlen (a : Answer) (s : State) : (finish a s).txlen = s.txlen := rfl

@[simp] theorem finish_rxb (a : Answer) (s : State) : (finish a s).rxb = s.rxb := rfl

@[simp] theorem finish_rxcnt (a : Answer) (s : State) : (finish a s).rxcnt = s.rxcnt := rfl

@[simp] theorem finish_result (a : Answer) (s : State) : (finish a s).result = s.result := rfl

@[simp] theorem finish_fail (a : Answer) (s : State) : (finish a s).fail = s.fail := rfl

@[simp] theorem finish_busy (a : Answer) (s : State) : (finish a s).busy = false := rfl

@[simp] theorem finish_phase (a : Answer) (s : State) : (finish a s).phase = .idle := rfl

@[simp] theorem finish_idx (a : Answer) (s : State) : (finish a s).idx = s.idx := rfl

@[simp] theorem finish_tmr (a : Answer) (s : State) : (finish a s).tmr = s.tmr := rfl

@[simp] theorem finish_out (a : Answer) (s : State) : (finish a s).out = s.out := rfl

@[simp] theorem finish_pending (a : Answer) (s : State) : (finish a s).pending = s.pending := rfl

@[simp] theorem finish_cur (a : Answer) (s : State) : (finish a s).cur = none := rfl

@[simp] theorem finish_inputs (a : Answer) (s : State) : (finish a s).inputs = s.inputs := rfl

@[simp] theorem finish_line (a : Answer) (s : State) : (finish a s).line = s.line := rfl

@[simp] theorem finish_answer (a : Answer) (s : State) : (finish a s).answer = a := rfl

@[simp] theorem finish_draws (a : Answer) (s : State) : (finish a s).draws = s.draws := rfl

@[simp] theorem countDown_variant (s : State) : (countDown s).variant = s.variant := rfl

@[simp] theorem countDown_ackEn (s : State) : (countDown s).ackEn = s.ackEn := rfl

@[simp] theorem countDown_timeout (s : State) : (countDown s).timeout = s.timeout := rfl

@[simp] theorem countDown_txb (s : State) : (countDown s).txb = s.txb := rfl

@[simp] theorem countDown_txlen (s : State) : (countDown s).txlen = s.txlen := rfl

@[simp] theorem countDown_rxb (s : State) : (countDown s).rxb = s.rxb := rfl

@[simp] theorem countDown_rxcnt (s : State) : (countDown s).rxcnt = s.rxcnt := rfl

@[simp] theorem countDown_result (s : State) : (countDown s).result = s.result := rfl

@[simp] theorem countDown_fail (s : State) : (countDown s).fail = s.fail := rfl

@[simp] theorem countDown_busy (s : State) : (countDown s).busy = s.busy := rfl

@[simp] theorem countDown_phase (s : State) : (countDown s).phase = s.phase := rfl

@[simp] theorem countDown_idx (s : State) : (countDown s).idx = s.idx := rfl

@[simp] theorem countDown_tmr (s : State) : (countDown s).tmr = if s.tmr = 0#16 then 0#16 else s.tmr - 1#16 := rfl

@[simp] theorem countDown_out (s : State) : (countDown s).out = s.out := rfl

@[simp] theorem countDown_pending (s : State) : (countDown s).pending = s.pending := rfl

@[simp] theorem countDown_cur (s : State) : (countDown s).cur = s.cur := rfl

@[simp] theorem countDown_inputs (s : State) : (countDown s).inputs = s.inputs := rfl

@[simp] theorem countDown_line (s : State) : (countDown s).line = s.line := rfl

@[simp] theorem countDown_answer (s : State) : (countDown s).answer = s.answer := rfl

@[simp] theorem countDown_draws (s : State) : (countDown s).draws = s.draws := rfl

@[simp] theorem closeRead_variant (s : State) : (closeRead s).variant = s.variant := rfl

@[simp] theorem closeRead_ackEn (s : State) : (closeRead s).ackEn = s.ackEn := rfl

@[simp] theorem closeRead_timeout (s : State) : (closeRead s).timeout = s.timeout := rfl

@[simp] theorem closeRead_txb (s : State) : (closeRead s).txb = s.txb := rfl

@[simp] theorem closeRead_txlen (s : State) : (closeRead s).txlen = s.txlen := rfl

@[simp] theorem closeRead_rxb (s : State) :
    (closeRead s).rxb = Memory.writeBlock s.rxb s.idx.val (s.pending.take (frameLen s.variant - s.idx.val)) := rfl

@[simp] theorem closeRead_rxcnt (s : State) :
    (closeRead s).rxcnt = Fin.ofNat 11 (s.idx.val + (s.pending.take (frameLen s.variant - s.idx.val)).length) := rfl

@[simp] theorem closeRead_result (s : State) : (closeRead s).result = s.result := rfl

@[simp] theorem closeRead_fail (s : State) : (closeRead s).fail = s.fail := rfl

@[simp] theorem closeRead_busy (s : State) : (closeRead s).busy = s.busy := rfl

@[simp] theorem closeRead_phase (s : State) : (closeRead s).phase = .check := rfl

@[simp] theorem closeRead_idx (s : State) :
    (closeRead s).idx = Fin.ofNat 11 (s.idx.val + (s.pending.take (frameLen s.variant - s.idx.val)).length) := rfl

@[simp] theorem closeRead_tmr (s : State) : (closeRead s).tmr = s.tmr := rfl

@[simp] theorem closeRead_out (s : State) : (closeRead s).out = s.out := rfl

@[simp] theorem closeRead_pending (s : State) :
    (closeRead s).pending = s.pending.drop (frameLen s.variant - s.idx.val) := rfl

@[simp] theorem closeRead_cur (s : State) : (closeRead s).cur = s.cur := rfl

@[simp] theorem closeRead_inputs (s : State) : (closeRead s).inputs = s.inputs := rfl

@[simp] theorem closeRead_line (s : State) : (closeRead s).line = s.line := rfl

@[simp] theorem closeRead_answer (s : State) : (closeRead s).answer = s.answer := rfl

@[simp] theorem closeRead_draws (s : State) : (closeRead s).draws = s.draws := rfl

@[simp] theorem takeByte_variant (b : Byte) (rest : Bytes) (s : State) :
    (takeByte b rest s).variant = s.variant := rfl

@[simp] theorem takeByte_ackEn (b : Byte) (rest : Bytes) (s : State) : (takeByte b rest s).ackEn = s.ackEn := rfl

@[simp] theorem takeByte_timeout (b : Byte) (rest : Bytes) (s : State) :
    (takeByte b rest s).timeout = s.timeout := rfl

@[simp] theorem takeByte_txb (b : Byte) (rest : Bytes) (s : State) : (takeByte b rest s).txb = s.txb := rfl

@[simp] theorem takeByte_txlen (b : Byte) (rest : Bytes) (s : State) : (takeByte b rest s).txlen = s.txlen := rfl

@[simp] theorem takeByte_rxb (b : Byte) (rest : Bytes) (s : State) :
    (takeByte b rest s).rxb = Memory.write s.rxb s.idx.val b := rfl

@[simp] theorem takeByte_rxcnt (b : Byte) (rest : Bytes) (s : State) : (takeByte b rest s).rxcnt = s.rxcnt := rfl

@[simp] theorem takeByte_result (b : Byte) (rest : Bytes) (s : State) : (takeByte b rest s).result = s.result := rfl

@[simp] theorem takeByte_fail (b : Byte) (rest : Bytes) (s : State) : (takeByte b rest s).fail = s.fail := rfl

@[simp] theorem takeByte_busy (b : Byte) (rest : Bytes) (s : State) : (takeByte b rest s).busy = s.busy := rfl

@[simp] theorem takeByte_phase (b : Byte) (rest : Bytes) (s : State) : (takeByte b rest s).phase = s.phase := rfl

@[simp] theorem takeByte_idx (b : Byte) (rest : Bytes) (s : State) : (takeByte b rest s).idx = s.idx + 1 := rfl

@[simp] theorem takeByte_tmr (b : Byte) (rest : Bytes) (s : State) : (takeByte b rest s).tmr = s.tmr := rfl

@[simp] theorem takeByte_out (b : Byte) (rest : Bytes) (s : State) : (takeByte b rest s).out = s.out := rfl

@[simp] theorem takeByte_pending (b : Byte) (rest : Bytes) (s : State) : (takeByte b rest s).pending = rest := rfl

@[simp] theorem takeByte_cur (b : Byte) (rest : Bytes) (s : State) : (takeByte b rest s).cur = s.cur := rfl

@[simp] theorem takeByte_inputs (b : Byte) (rest : Bytes) (s : State) : (takeByte b rest s).inputs = s.inputs := rfl

@[simp] theorem takeByte_line (b : Byte) (rest : Bytes) (s : State) : (takeByte b rest s).line = s.line := rfl

@[simp] theorem takeByte_answer (b : Byte) (rest : Bytes) (s : State) : (takeByte b rest s).answer = s.answer := rfl

@[simp] theorem takeByte_draws (b : Byte) (rest : Bytes) (s : State) : (takeByte b rest s).draws = s.draws := rfl

@[simp] theorem arriveFree_variant (s : State) : (arriveFree s).variant = s.variant := rfl

@[simp] theorem arriveFree_ackEn (s : State) : (arriveFree s).ackEn = s.ackEn := rfl

@[simp] theorem arriveFree_timeout (s : State) : (arriveFree s).timeout = s.timeout := rfl

@[simp] theorem arriveFree_txb (s : State) : (arriveFree s).txb = s.txb := rfl

@[simp] theorem arriveFree_txlen (s : State) : (arriveFree s).txlen = s.txlen := rfl

@[simp] theorem arriveFree_rxb (s : State) : (arriveFree s).rxb = s.rxb := rfl

@[simp] theorem arriveFree_rxcnt (s : State) : (arriveFree s).rxcnt = s.rxcnt := rfl

@[simp] theorem arriveFree_result (s : State) : (arriveFree s).result = s.result := rfl

@[simp] theorem arriveFree_fail (s : State) : (arriveFree s).fail = s.fail := rfl

@[simp] theorem arriveFree_busy (s : State) : (arriveFree s).busy = s.busy := rfl

@[simp] theorem arriveFree_phase (s : State) : (arriveFree s).phase = s.phase := rfl

@[simp] theorem arriveFree_idx (s : State) : (arriveFree s).idx = s.idx := rfl

@[simp] theorem arriveFree_tmr (s : State) : (arriveFree s).tmr = s.tmr := rfl

@[simp] theorem arriveFree_out (s : State) : (arriveFree s).out = s.out := rfl

@[simp] theorem arriveFree_pending (s : State) : (arriveFree s).pending = s.pending ++ Config.arrival s.draws := rfl

@[simp] theorem arriveFree_cur (s : State) : (arriveFree s).cur = s.cur := rfl

@[simp] theorem arriveFree_inputs (s : State) : (arriveFree s).inputs = s.inputs := rfl

@[simp] theorem arriveFree_line (s : State) : (arriveFree s).line = s.line := rfl

@[simp] theorem arriveFree_answer (s : State) : (arriveFree s).answer = s.answer := rfl

@[simp] theorem arriveFree_draws (s : State) : (arriveFree s).draws = s.draws + 1 := rfl

end Sys2Proof.Machine
end

