-- ==== Sys2Proof/Laws/Ops.lean ====
section
/-! SUPPORT. What each shared operation does, said once: the bounded read, the record of an outcome, SEND, QUERY, the
reset event. -/

namespace Sys2Proof.Machine

/-- After a discard the bounded read returns the first bytes of the draw and leaves the rest pending (20_memory.md R42). -/
theorem rxReadExactly_discard (n : Nat) (A : Bytes) (s : State) :
    rxReadExactly n A (rxDiscard s) = (A.take n, { s with pending := A.drop n }) := by
  simp [rxReadExactly, arrive, rxDiscard]

/-- The count of a read of at most ten bytes. -/
theorem val_ofNat_length (R : Bytes) (h : R.length ≤ 10) : (Fin.ofNat 11 R.length).val = R.length := by
  simp [Fin.ofNat]; omega

theorem length_buildFrame (cmd dh dl : Byte) (s : State) : (buildFrame cmd dh dl s).length = frameLen s.variant :=
  length_encodeFrame _ _ _ _ _

/-- The expected command of a QUERY is the command it sent (42_operations.md R88). -/
theorem expected_transmit (cmd dh dl : Byte) (s : State) : Memory.read (transmit cmd dh dl s).txb 3 = cmd := by
  have := length_buildFrame cmd dh dl s
  rw [transmit_txb, Memory.read_writeBlock, if_pos]
  · rfl
  · rw [this]; cases s.variant <;> decide

/-- The whole of a QUERY with its draw (42_operations.md R86), as one record. -/
theorem queryOp_eq (A : Bytes) (cmd dh dl : Byte) (s : State) :
    queryOp A cmd dh dl s =
      { s with
        txb := Memory.writeBlock s.txb 0 (buildFrame cmd dh dl s)
        txlen := txLenOf s.variant
        out := s.out ++ buildFrame cmd dh dl s
        pending := A.drop (frameLen s.variant)
        rxb := Memory.writeBlock s.rxb 0 (A.take (frameLen s.variant))
        rxcnt := Fin.ofNat 11 (A.take (frameLen s.variant)).length
        result := resultOf (decodeBlock (A.take (frameLen s.variant)) cmd s.variant)
        fail := failOf (decodeBlock (A.take (frameLen s.variant)) cmd s.variant)
        answer := .result (resultOf (decodeBlock (A.take (frameLen s.variant)) cmd s.variant)) } := by
  have e := expected_transmit cmd dh dl s
  simp only [queryOp, rxReadExactly_discard, storeRx, recordOutcome, handBack, e]
  rfl

/-- A QUERY with the draw that comes next, as one record. -/
theorem queryNext_eq (cmd dh dl : Byte) (s : State) :
    queryNext cmd dh dl s =
      { s with
        txb := Memory.writeBlock s.txb 0 (buildFrame cmd dh dl s)
        txlen := txLenOf s.variant
        out := s.out ++ buildFrame cmd dh dl s
        pending := (nextDraw s).drop (frameLen s.variant)
        rxb := Memory.writeBlock s.rxb 0 ((nextDraw s).take (frameLen s.variant))
        rxcnt := Fin.ofNat 11 ((nextDraw s).take (frameLen s.variant)).length
        result := resultOf (decodeBlock ((nextDraw s).take (frameLen s.variant)) cmd s.variant)
        fail := failOf (decodeBlock ((nextDraw s).take (frameLen s.variant)) cmd s.variant)
        answer := .result (resultOf (decodeBlock ((nextDraw s).take (frameLen s.variant)) cmd s.variant))
        line := s.line.tail
        draws := if s.line.isEmpty then s.draws + 1 else s.draws } := by
  unfold queryNext
  rw [queryOp_eq]
  rfl

/-- `setVolume(x)` is one SEND of 0x06 with the clamped volume (44_wrapper_pseudo_ops.md R103). -/
theorem wrapperCall_setVolume (x : Int) (s : State) :
    wrapperCall setVolumeWrapper x s = sendOp 0x06#8 0x00#8 (lo8 (trunc16 (clamp x 0 30))) s := rfl

/-- Both buffers of a SEND stay canonical. -/
theorem wf_transmit (cmd dh dl : Byte) (s : State) (h : Memory.wf s.txb = true) :
    Memory.wf (transmit cmd dh dl s).txb = true := by
  rw [transmit_txb]
  refine Memory.wf_writeBlock _ _ _ h ?_
  rw [length_buildFrame]
  have := frameLen_le s.variant
  omega

end Sys2Proof.Machine
end

