-- ==== Sys2Proof/Laws/PerInstr.lean ====
section
/-! SUPPORT. The family TableRow: each instruction's encoding matches the fixed bits of its own row of
spec/opcode_table.json, one lemma per constructor. -/

namespace Sys2Proof.Laws.TableRow

/-- A request word with the row's fixed bits: `w & mask = match` (30_encoding.md R57). -/
def ReqRow (p : Encoded) (mask fixed : ReqWord) : Prop := ∃ w, p = .req32 w ∧ w &&& mask = fixed

/-- A frame or block with the row's fixed bits, byte by byte: `b & mask = match` at every position (R45, R46, R57). -/
def FrameRow (F mask fixed : Bytes) : Prop := F.length = mask.length ∧ List.zipWith (· &&& ·) F mask = fixed

/-- The encoding of an instruction is a word of its table row. -/
def Statement (i : Instr) : Prop :=
  match i with
  | .send _ _ _ => ReqRow (encode i) 0xFF000000#32 0x10000000#32
  | .query _ _ _ => ReqRow (encode i) 0xFF000000#32 0x20000000#32
  | .status => ReqRow (encode i) 0xFFFFFFFF#32 0x30000000#32
  | .setvar _ => ReqRow (encode i) 0xFFFFFFFC#32 0x40000000#32
  | .setack _ => ReqRow (encode i) 0xFFFFFFFE#32 0x50000000#32
  | .settmo _ => ReqRow (encode i) 0xFFFF0000#32 0x60000000#32
  | .encStd _ _ _ _ => ∃ F, encode i = .outFrame .std F ∧
    FrameRow F [0xFF#8, 0xFF#8, 0xFF#8, 0#8, 0xFE#8, 0#8, 0#8, 0#8, 0#8, 0xFF#8]
      [0x7E#8, 0xFF#8, 0x06#8, 0#8, 0#8, 0#8, 0#8, 0#8, 0#8, 0xEF#8]
  | .encAlt _ _ _ _ => ∃ F, encode i = .outFrame .alt F ∧
    FrameRow F [0xFF#8, 0xFF#8, 0xFF#8, 0#8, 0xFE#8, 0#8, 0#8, 0#8, 0#8, 0xFF#8]
      [0x7E#8, 0xFF#8, 0x06#8, 0#8, 0#8, 0#8, 0#8, 0#8, 0#8, 0xEF#8]
  | .encNock _ _ _ _ => ∃ F, encode i = .outFrame .nock F ∧
    FrameRow F [0xFF#8, 0xFF#8, 0xFF#8, 0#8, 0xFE#8, 0#8, 0#8, 0xFF#8]
      [0x7E#8, 0xFF#8, 0x06#8, 0#8, 0#8, 0#8, 0#8, 0xEF#8]
  | .rxF10 _ _ _ _ _ _ => ∃ R, encode i = .inFrame R ∧
    FrameRow R [0xFF#8, 0xFF#8, 0xFF#8, 0#8, 0#8, 0#8, 0#8, 0#8, 0#8, 0xFF#8]
      [0x7E#8, 0xFF#8, 0x06#8, 0#8, 0#8, 0#8, 0#8, 0#8, 0#8, 0xEF#8]
  | .rxF8 _ _ _ _ => ∃ R, encode i = .inFrame R ∧
    FrameRow R [0xFF#8, 0xFF#8, 0xFF#8, 0#8, 0#8, 0#8, 0#8, 0xFF#8]
      [0x7E#8, 0xFF#8, 0x06#8, 0#8, 0#8, 0#8, 0#8, 0xEF#8]
  | .stError => ∃ arg, encode i = .code 0x40#8 arg
  | .stAccepted => ∃ arg, encode i = .code 0x41#8 arg
  | .stPlaydone => ∃ arg, encode i = .code 0x3D#8 arg
  | .stReady => ∃ arg, encode i = .code 0x3F#8 arg
  | .cmdSetvolume _ => ∃ arg, encode i = .code 0x06#8 arg
  | .cmdQueryvolume => ∃ arg, encode i = .code 0x43#8 arg
  | .cmd0B _ _ => ∃ arg, encode i = .code 0x0B#8 arg

/-- The mask of a row's fixed high part keeps that part and drops the field below it. -/
theorem high_part {h l : Nat} (a : BitVec h) (b : BitVec l) :
    (a ++ b) &&& (BitVec.allOnes h ++ 0#l) = a ++ 0#l := by
  ext i hi
  simp only [BitVec.getElem_and, BitVec.getElem_append]
  split <;> simp

/-- The same over the three byte fields of SEND and QUERY. -/
theorem high_byte (a cmd dh dl : Byte) :
    (a ++ cmd ++ dh ++ dl) &&& (BitVec.allOnes 8 ++ 0#8 ++ 0#8 ++ 0#8) = a ++ 0#8 ++ 0#8 ++ 0#8 := by
  ext i hi
  simp only [BitVec.getElem_and, BitVec.getElem_append]
  repeat' split
  all_goals simp only [BitVec.getElem_allOnes, BitVec.getElem_zero, Bool.and_true, Bool.and_false]

theorem send (cmd dh dl : Byte) : Statement (.send cmd dh dl) := ⟨_, rfl, high_byte 0x10#8 cmd dh dl⟩

theorem query (cmd dh dl : Byte) : Statement (.query cmd dh dl) := ⟨_, rfl, high_byte 0x20#8 cmd dh dl⟩

theorem status : Statement .status := ⟨_, rfl, rfl⟩

theorem setvar (v : BitVec 2) : Statement (.setvar v) := ⟨_, rfl, high_part 0x10000000#30 v⟩

theorem setack (a : BitVec 1) : Statement (.setack a) := ⟨_, rfl, high_part 0x28000000#31 a⟩

theorem settmo (t : Half) : Statement (.settmo t) := ⟨_, rfl, high_part 0x6000#16 t⟩

/-- The acknowledgement byte of a built frame keeps bits 7:1 zero (30_encoding.md R47). -/
theorem ackByte_high (a : BitVec 1) : Machine.ackByte a &&& 0xFE#8 = 0#8 := by revert a; decide

theorem encStd (cmd dh dl : Byte) (ack : BitVec 1) : Statement (.encStd cmd dh dl ack) :=
  ⟨_, rfl, rfl, by
    simp [Machine.encodeFrame, Machine.frameHead, Machine.frameTail, ackByte_high, Machine.startMarker,
      Machine.protocolVersion, Machine.payloadLength, Machine.endMarker]⟩

theorem encAlt (cmd dh dl : Byte) (ack : BitVec 1) : Statement (.encAlt cmd dh dl ack) :=
  ⟨_, rfl, rfl, by
    simp [Machine.encodeFrame, Machine.frameHead, Machine.frameTail, ackByte_high, Machine.startMarker,
      Machine.protocolVersion, Machine.payloadLength, Machine.endMarker]⟩

theorem encNock (cmd dh dl : Byte) (ack : BitVec 1) : Statement (.encNock cmd dh dl ack) :=
  ⟨_, rfl, rfl, by
    simp [Machine.encodeFrame, Machine.frameHead, Machine.frameTail, ackByte_high, Machine.startMarker,
      Machine.protocolVersion, Machine.payloadLength, Machine.endMarker]⟩

theorem rxF10 (cmd ack dh dl ckh ckl : Byte) : Statement (.rxF10 cmd ack dh dl ckh ckl) :=
  ⟨_, rfl, rfl, by
    simp [Machine.startMarker, Machine.protocolVersion, Machine.payloadLength, Machine.endMarker]⟩

theorem rxF8 (cmd ack dh dl : Byte) : Statement (.rxF8 cmd ack dh dl) :=
  ⟨_, rfl, rfl, by
    simp [Machine.startMarker, Machine.protocolVersion, Machine.payloadLength, Machine.endMarker]⟩

theorem stError : Statement .stError := ⟨_, rfl⟩

theorem stAccepted : Statement .stAccepted := ⟨_, rfl⟩

theorem stPlaydone : Statement .stPlaydone := ⟨_, rfl⟩

theorem stReady : Statement .stReady := ⟨_, rfl⟩

theorem cmdSetvolume (x : Int) : Statement (.cmdSetvolume x) := ⟨_, rfl⟩

theorem cmdQueryvolume : Statement .cmdQueryvolume := ⟨_, rfl⟩

theorem cmd0B (dh dl : Byte) : Statement (.cmd0B dh dl) := ⟨_, rfl⟩

end Sys2Proof.Laws.TableRow
end

