-- ==== Sys2Proof/Laws/Step.lean ====
section
/-! SUPPORT. What a step and an instruction can do, each said once, so that no later proof unfolds them. -/

namespace Sys2Proof.Machine

/-- SETVAR that answers a next state wrote the variant of its code. -/
theorem execSetvar_next {v : BitVec 2} {s t : State} (h : execSetvar v s = .next t) :
    ∃ x, variantOfCode v = some x ∧ t = handBack .silent { s with variant := x } := by
  unfold execSetvar at h
  split at h
  · rename_i x hx
    exact ⟨x, hx, by injection h with h; exact h.symm⟩
  · cases h

/-- An instruction that answers a next state is a SEND, a QUERY, or writes at most the control registers and the answer. -/
theorem exec_next {i : Instr} {s t : State} (h : exec i s = .next t) :
    (∃ cmd dh dl, transferOf i = some (.send, cmd, dh, dl) ∧ t = sendOp cmd dh dl s) ∨
    (∃ cmd dh dl, transferOf i = some (.query, cmd, dh, dl) ∧ t = queryNext cmd dh dl s) ∨
    (transferOf i = none ∧ ∃ v a x w, t = { s with variant := v, ackEn := a, timeout := x, answer := w }) := by
  cases i with
  | send cmd dh dl => injection h with h; exact .inl ⟨_, _, _, rfl, h.symm⟩
  | query cmd dh dl => injection h with h; exact .inr (.inl ⟨_, _, _, rfl, h.symm⟩)
  | cmdSetvolume x => injection h with h; exact .inl ⟨_, _, _, rfl, h.symm⟩
  | cmdQueryvolume => injection h with h; exact .inr (.inl ⟨_, _, _, rfl, h.symm⟩)
  | cmd0B dh dl => injection h with h; exact .inl ⟨_, _, _, rfl, h.symm⟩
  | setvar v =>
    obtain ⟨x, _, rfl⟩ := execSetvar_next h
    exact .inr (.inr ⟨rfl, _, _, _, _, rfl⟩)
  | status => injection h with h; exact .inr (.inr ⟨rfl, _, _, _, _, h.symm⟩)
  | setack a => injection h with h; exact .inr (.inr ⟨rfl, _, _, _, _, h.symm⟩)
  | settmo x => injection h with h; exact .inr (.inr ⟨rfl, _, _, _, _, h.symm⟩)
  | encStd cmd dh dl ack => injection h with h; exact .inr (.inr ⟨rfl, _, _, _, _, h.symm⟩)
  | encAlt cmd dh dl ack => injection h with h; exact .inr (.inr ⟨rfl, _, _, _, _, h.symm⟩)
  | encNock cmd dh dl ack => injection h with h; exact .inr (.inr ⟨rfl, _, _, _, _, h.symm⟩)
  | rxF10 cmd ack dh dl ckh ckl => injection h with h; exact .inr (.inr ⟨rfl, _, _, _, _, h.symm⟩)
  | rxF8 cmd ack dh dl => injection h with h; exact .inr (.inr ⟨rfl, _, _, _, _, h.symm⟩)
  | stError => injection h with h; exact .inr (.inr ⟨rfl, _, _, _, _, h.symm⟩)
  | stAccepted => injection h with h; exact .inr (.inr ⟨rfl, _, _, _, _, h.symm⟩)
  | stPlaydone => injection h with h; exact .inr (.inr ⟨rfl, _, _, _, _, h.symm⟩)
  | stReady => injection h with h; exact .inr (.inr ⟨rfl, _, _, _, _, h.symm⟩)

/-- Everything a step that answers a next state can have done. -/
inductive Stepped (s : State) : State → Prop
  | idle (hb : s.busy = false) (hi : s.inputs = []) : Stepped s (idleStep s)
  | free (hb : s.busy = true) (hi : Held s.inputs) : Stepped s (freeStep s)
  | proceeded (rest : List Input) (hb : s.busy = true) (hi : s.inputs = .proceed :: rest) :
      Stepped s (phaseStep { s with inputs := rest })
  | waited (rest : List Input) (hb : s.busy = false) (hi : s.inputs = .proceed :: rest) :
      Stepped s { s with inputs := rest }
  | arrived (A : Bytes) (rest : List Input) (hi : s.inputs = .arrives A :: rest) :
      Stepped s (arrive A { s with inputs := rest })
  | ticked (rest : List Input) (hi : s.inputs = .tick :: rest) : Stepped s (tickStep { s with inputs := rest })
  | wasReset (rest : List Input) (hi : s.inputs = .reset :: rest) : Stepped s (resetEvent { s with inputs := rest })
  | answered (e : Input) (rest : List Input) (hi : s.inputs = e :: rest) (he : e ≠ .reset) (w : Answer) (n : Nat) :
      Stepped s { s with inputs := rest, answer := w, draws := n }
  | began (p : Encoded) (rest : List Input) (hb : s.busy = false) (hi : s.inputs = .start p :: rest)
      (x : Transfer) (cmd dh dl : Byte) : Stepped s (beginTransfer x cmd dh dl { s with inputs := rest })
  | ran (e : Input) (rest : List Input) (hb : s.busy = false) (hi : s.inputs = e :: rest) (he : e ≠ .reset)
      (i : Instr) (t : State) (hx : exec i { s with inputs := rest } = .next t) : Stepped s t

/-- A rejected word that is not refused is a malformed block, judged. -/
theorem rejected_next {p : Encoded} {r : Reject} {s t : State} (h : rejected p r s = .next t) :
    ∃ w, t = handBack w s := by
  cases p with
  | inFrame R => injection h with h; exact ⟨_, h.symm⟩
  | req32 w => cases h
  | outFrame v F => cases h
  | code c arg => cases h

/-- An accepted call runs an instruction, or answers. -/
theorem acceptCall_next {p : Encoded} {s t : State} (h : acceptCall p s = .next t) :
    (∃ i, decode p = .ok i ∧ exec i s = .next t) ∨ ∃ w, t = handBack w s := by
  unfold acceptCall at h
  split at h
  · rename_i i hi
    exact .inl ⟨i, hi, h⟩
  · exact .inr (rejected_next h)

/-- The step inversion: every next state is one of the cases of `Stepped`. -/
theorem step_next {s t : State} (h : step s = .next t) : Stepped s t := by
  unfold step stepOnce at h
  split at h
  · rename_i hi
    split at h <;> injection h with h <;> subst h
    · rename_i hb
      exact .free hb (by rw [hi]; trivial)
    · rename_i hb
      exact .idle (by simpa using hb) hi
  · rename_i A rest hi
    injection h with h
    exact h ▸ .arrived A rest hi
  · rename_i rest hi
    injection h with h
    exact h ▸ .ticked rest hi
  · rename_i rest hi
    injection h with h
    subst h
    split
    · rename_i hb
      exact .proceeded rest hb hi
    · rename_i hb
      exact .waited rest (by simpa using hb) hi
  · rename_i rest hi
    injection h with h
    exact h ▸ .wasReset rest hi
  · rename_i a rest hi
    unfold busReadStep at h
    split at h
    · cases h
    · split at h
      · cases h
      · split at h <;> injection h with h <;> subst h
        · exact .answered _ rest hi (by simp) _ _
        · exact .answered _ rest hi (by simp) _ s.draws
  · rename_i p rest hi
    split at h
    · rename_i hb
      injection h with h
      exact h ▸ .free hb (by rw [hi]; trivial)
    · rename_i hb
      rcases acceptCall_next h with ⟨i, _, hx⟩ | ⟨w, rfl⟩
      · exact .ran _ rest (by simpa using hb) hi (by simp) i t hx
      · exact .answered _ rest hi (by simp) w s.draws
  · rename_i p rest hi
    split at h
    · rename_i hb
      injection h with h
      exact h ▸ .free hb (by rw [hi]; trivial)
    · rename_i hb
      unfold acceptStart at h
      split at h
      · rename_i i _
        split at h
        · injection h with h
          exact h ▸ .began p rest (by simpa using hb) hi _ _ _ _
        · exact .ran _ rest (by simpa using hb) hi (by simp) i t h
      · obtain ⟨w, rfl⟩ := rejected_next h
        exact .answered _ rest hi (by simp) w s.draws
  · rename_i a w rest hi
    split at h
    · rename_i ha
      split at h
      · rename_i hb
        injection h with h
        exact h ▸ .free hb (by rw [hi]; exact ha)
      · rename_i hb
        rcases acceptCall_next h with ⟨i, _, hx⟩ | ⟨w', rfl⟩
        · exact .ran _ rest (by simpa using hb) hi (by simp) i t hx
        · exact .answered _ rest hi (by simp) w' s.draws
    · unfold strayWrite at h
      split at h <;> cases h

/-- A busy DFC with nothing scripted first takes one free step. -/
theorem step_busy {s : State} (hb : s.busy = true) (hi : Held s.inputs) : step s = .next (freeStep s) := by
  unfold step stepOnce
  match hs : s.inputs, hi with
  | [], _ => simp [hb]
  | .call _ :: _, _ => simp [hb]
  | .start _ :: _, _ => simp [hb]
  | .busWrite _ _ :: _, ha => simp [hb, show _ = 0x00#8 from ha]

/-- A step of the walk leaves the transmit buffer, the control registers, the events and the draws alone. -/
theorem phaseStep_keeps (s : State) :
    (phaseStep s).txb = s.txb ∧ (phaseStep s).variant = s.variant ∧ (phaseStep s).ackEn = s.ackEn ∧
    (phaseStep s).timeout = s.timeout ∧ (phaseStep s).txlen = s.txlen ∧ (phaseStep s).inputs = s.inputs ∧
    (phaseStep s).draws = s.draws := by
  unfold phaseStep txStep flushStep rxStep checkStep closeIfFull
  repeat' split
  all_goals simp

/-- What a millisecond can do: nothing outside RX; in RX the timer falls, and at 0 the read ends. -/
theorem tickStep_cases (s : State) :
    (s.phase ≠ .rx ∧ tickStep s = s) ∨
    (s.phase = .rx ∧ (countDown s).tmr ≠ 0#16 ∧ tickStep s = countDown s) ∨
    (s.phase = .rx ∧ (countDown s).tmr = 0#16 ∧ tickStep s = closeRead (countDown s)) := by
  unfold tickStep
  cases hp : s.phase with
  | rx =>
    by_cases h : (countDown s).tmr = 0#16
    · exact .inr (.inr ⟨rfl, h, if_pos h⟩)
    · exact .inr (.inl ⟨rfl, h, if_neg h⟩)
  | idle => simp
  | tx => simp
  | flush => simp
  | check => simp

/-- A free step is a step of the walk, or in a waiting RX a millisecond, after what may have arrived. -/
theorem freeStep_cases (s : State) :
    (s.phase = .rx ∧ (arriveFree s).pending = [] ∧ freeStep s = tickStep (arriveFree s)) ∨
    (¬ (s.phase = .rx ∧ (arriveFree s).pending = []) ∧ freeStep s = phaseStep (arriveFree s)) := by
  unfold freeStep
  by_cases h : s.phase = .rx ∧ (arriveFree s).pending = []
  · exact .inl ⟨h.1, h.2, if_pos h⟩
  · exact .inr ⟨h, if_neg h⟩

/-- A free step leaves the transmit buffer, the control registers and the events alone. -/
theorem freeStep_keeps (s : State) :
    (freeStep s).txb = s.txb ∧ (freeStep s).variant = s.variant ∧ (freeStep s).ackEn = s.ackEn ∧
    (freeStep s).timeout = s.timeout ∧ (freeStep s).txlen = s.txlen ∧ (freeStep s).inputs = s.inputs := by
  rcases freeStep_cases s with ⟨_, _, h⟩ | ⟨_, h⟩
  · rw [h]
    rcases tickStep_cases (arriveFree s) with ⟨_, h⟩ | ⟨_, _, h⟩ | ⟨_, _, h⟩ <;> rw [h] <;> simp
  · rw [h]
    obtain ⟨a, b, c, d, e, f, _⟩ := phaseStep_keeps (arriveFree s)
    exact ⟨a, b, c, d, e, f⟩

theorem viewPosition_eq_none (b : Nat) (a : Byte) :
    viewPosition b a = none ↔ ¬ (b ≤ a.toNat ∧ a.toNat < b + 10) := by
  unfold viewPosition
  split <;> simp_all

/-- The indices with a view are the listed ones, in every state (20_memory.md R35). -/
theorem viewContent_eq_none (a : Byte) (s : State) : viewContent a s = none ↔ ¬ ListedIndex a := by
  have hne : ∀ k : Byte, a ≠ k ↔ a.toNat ≠ k.toNat := fun k => by rw [ne_eq, ne_eq, BitVec.toNat_inj]
  unfold ListedIndex
  by_cases h : 1 ≤ a.toNat ∧ a.toNat ≤ 9
  · have : a = 1#8 ∨ a = 2#8 ∨ a = 3#8 ∨ a = 4#8 ∨ a = 5#8 ∨ a = 6#8 ∨ a = 7#8 ∨ a = 8#8 ∨ a = 9#8 := by
      simp only [← BitVec.toNat_inj]; simp; omega
    rcases this with rfl | rfl | rfl | rfl | rfl | rfl | rfl | rfl | rfl <;> simp [viewContent]
  · unfold viewContent
    iterate 9 rw [if_neg (by rw [← ne_eq, hne]; simp; omega)]
    cases h1 : viewPosition 0x10 a with
    | some x =>
      have : ¬ viewPosition 0x10 a = none := by simp [h1]
      rw [viewPosition_eq_none] at this
      simp; omega
    | none =>
      rw [viewPosition_eq_none] at h1
      cases h2 : viewPosition 0x20 a with
      | some x =>
        have : ¬ viewPosition 0x20 a = none := by simp [h2]
        rw [viewPosition_eq_none] at this
        simp; omega
      | none =>
        rw [viewPosition_eq_none] at h2
        simp; omega

end Sys2Proof.Machine
end

