-- ==== Sys2Proof/Laws/Phases.lean ====
section
/-! SUPPORT. Runs of the phase walk, said once: a run composes, phase TX writes the rest of the frame, phase RX takes at
most the rest of the block and ends. -/

namespace Sys2Proof.Machine

theorem run_step {s t : State} (h : step s = .next t) (k : Nat) : run (k + 1) s = run k t := by simp [run, h]

/-- A run of `a + b` steps is the run of `b` steps from where `a` steps lead. -/
theorem run_add {a b : Nat} {s t : State} (h : run a s = .next t) : run (a + b) s = run b t := by
  induction a generalizing s with
  | zero => simp [run] at h; subst h; simp
  | succ a ih =>
    rw [Nat.add_right_comm]
    simp only [run] at h ⊢
    split at h
    · exact ih h
    · cases h
    · cases h

theorem val_idx_succ (i : Fin 11) (h : i.val < 10) : (i + 1).val = i.val + 1 := by
  rw [Fin.val_add]; simp; omega

/-- In phase TX, `m` free steps write the `m` bytes that are left; bytes may arrive meanwhile. -/
theorem run_tx (m : Nat) : ∀ s : State, s.busy = true → s.phase = .tx → Held s.inputs →
    s.idx.val + m = frameLen s.variant → ∃ (j : Fin 11) (A : Bytes) (d : Nat), j.val = frameLen s.variant ∧
      run m s = .next { s with out := s.out ++ (List.range' s.idx.val m).map (Memory.read s.txb), idx := j,
                               pending := s.pending ++ A, draws := d } := by
  induction m with
  | zero => intro s _ _ _ h; exact ⟨s.idx, [], s.draws, by simpa using h, by simp [run]⟩
  | succ m ih =>
    intro s hb hp hi h
    have hl := frameLen_le s.variant
    have hv := val_idx_succ s.idx (by omega)
    have hs : step s = .next { s with out := s.out ++ [Memory.read s.txb s.idx.val], idx := s.idx + 1,
                                      pending := s.pending ++ Config.arrival s.draws, draws := s.draws + 1 } := by
      rw [step_busy hb hi]
      simp only [freeStep, arriveFree_phase, hp, phaseStep, txStep]
      rw [if_neg (by simp), if_pos (by simp; omega), ← hp]
      rfl
    obtain ⟨j, A, d, hj, hr⟩ := ih { s with out := s.out ++ [Memory.read s.txb s.idx.val], idx := s.idx + 1,
                                            pending := s.pending ++ Config.arrival s.draws, draws := s.draws + 1 }
      hb hp hi (by show (s.idx + 1).val + m = frameLen s.variant; omega)
    refine ⟨j, Config.arrival s.draws ++ A, d, hj, ?_⟩
    rw [run_step hs, hr]
    simp only [hv, List.range'_succ, List.map_cons, List.append_assoc, List.singleton_append]

/-- The bytes TX reads back from a buffer a block was just written to are the block. -/
theorem map_read_writeBlock (m : Memory) (F : Bytes) :
    (List.range' 0 F.length).map (Memory.read (Memory.writeBlock m 0 F)) = F := by
  have := Memory.block_writeBlock m F
  rwa [Memory.block, List.range_eq_range'] at this

/-- What `closeRead` leaves, as one record, with its count as a number. -/
theorem val_closeRead (s : State) (h : s.idx.val ≤ frameLen s.variant) :
    (closeRead s).idx.val = s.idx.val + (s.pending.take (frameLen s.variant - s.idx.val)).length := by
  have := frameLen_le s.variant
  simp [Fin.ofNat]
  omega

/-- In phase RX the walk comes to CHECK, having taken, of what was pending and of the bytes `A` that arrived, at most the
bytes that are left of the block; `RXCNT` counts them. -/
theorem run_rx (n : Nat) : ∀ s : State, s.busy = true → s.phase = .rx → Held s.inputs →
    s.idx.val < frameLen s.variant → s.tmr.toNat + (frameLen s.variant - s.idx.val) ≤ n →
    ∃ (k : Nat) (A : Bytes) (d : Nat) (x : Half) (r : Fin 11),
      let left := frameLen s.variant - s.idx.val
      r.val = s.idx.val + ((s.pending ++ A).take left).length ∧
      run k s = .next { s with
        phase := .check, rxb := Memory.writeBlock s.rxb s.idx.val ((s.pending ++ A).take left),
        pending := (s.pending ++ A).drop left, draws := d, tmr := x, rxcnt := r, idx := r } := by
  induction n with
  | zero => intro s _ _ _ hlt hn; omega
  | succ n ih =>
  intro s hb hp hi hlt hn
  have hl := frameLen_le s.variant
  have hs := step_busy hb hi
  generalize hA : Config.arrival s.draws = A0
  have hf : arriveFree s = { s with pending := s.pending ++ A0, draws := s.draws + 1 } := by rw [← hA]; rfl
  simp only [freeStep, hf] at hs
  have ends : ∀ x : Half, step s = .next (closeRead { s with pending := s.pending ++ A0, draws := s.draws + 1, tmr := x }) →
      ∃ (k : Nat) (A : Bytes) (d : Nat) (y : Half) (r : Fin 11),
        let left := frameLen s.variant - s.idx.val
        r.val = s.idx.val + ((s.pending ++ A).take left).length ∧
        run k s = .next { s with
          phase := .check, rxb := Memory.writeBlock s.rxb s.idx.val ((s.pending ++ A).take left),
          pending := (s.pending ++ A).drop left, draws := d, tmr := y, rxcnt := r, idx := r } := fun x h =>
    ⟨1, A0, s.draws + 1, x, _, val_closeRead { s with pending := s.pending ++ A0 } (Nat.le_of_lt hlt), by
      rw [run_step h]; rfl⟩
  by_cases hw : s.pending ++ A0 = []
  · rw [if_pos ⟨hp, hw⟩] at hs
    simp only [tickStep, hp] at hs
    split at hs
    · exact ends (if s.tmr = 0#16 then 0#16 else s.tmr - 1#16) hs
    · rename_i ht
      have h0 : s.tmr ≠ 0#16 := fun e => ht (by simp [countDown, e])
      have ht' : (s.tmr - 1#16).toNat + 1 = s.tmr.toNat := by
        have : s.tmr.toNat ≠ 0 := fun e => h0 (BitVec.eq_of_toNat_eq e)
        have := s.tmr.isLt
        rw [BitVec.toNat_sub]; simp; omega
      obtain ⟨k, A, d, x, r, hr, hk⟩ := ih { s with pending := [], draws := s.draws + 1, tmr := s.tmr - 1#16 }
        hb hp hi hlt (by show (s.tmr - 1#16).toNat + (frameLen s.variant - s.idx.val) ≤ n; omega)
      refine ⟨k + 1, A0 ++ A, d, x, r, ?_, ?_⟩
      · rw [← List.append_assoc, hw]; exact hr
      · rw [← List.append_assoc, hw, run_step hs]
        simp only [countDown, hw, h0, if_false]
        rw [← hp] at *
        rw [hk]
  · rw [if_neg (fun h => hw h.2)] at hs
    simp only [phaseStep, hp, rxStep] at hs
    by_cases ht : s.tmr = 0#16
    · rw [if_pos ht] at hs
      exact ends s.tmr hs
    · rw [if_neg ht, if_neg (by omega)] at hs
      obtain ⟨b, q, hq⟩ : ∃ b q, s.pending ++ A0 = b :: q := List.exists_cons_of_ne_nil hw
      have hv := val_idx_succ s.idx (by omega)
      have e : frameLen s.variant - s.idx.val = (frameLen s.variant - (s.idx.val + 1)) + 1 := by omega
      simp only [hq, closeIfFull] at hs
      split at hs
      · rename_i hfull
        have hz : frameLen s.variant - (s.idx.val + 1) = 0 := by
          have : frameLen s.variant ≤ (s.idx + 1).val := hfull
          omega
        have hz' : frameLen s.variant - (s.idx + 1).val = 0 := by omega
        refine ⟨1, A0, s.draws + 1, s.tmr, Fin.ofNat 11 (s.idx + 1).val, ?_, ?_⟩
        · rw [hq, e, hz]; simp [Fin.ofNat]; omega
        · rw [run_step hs, hq, e, hz]
          simp [run, closeRead, takeByte, hz', Memory.writeBlock]
      · rename_i hfull
        have hroom : (s.idx + 1).val < frameLen s.variant := by
          have : ¬ frameLen s.variant ≤ (s.idx + 1).val := hfull
          omega
        obtain ⟨k, A, d, x, r, hr, hk⟩ := ih
          { s with rxb := Memory.write s.rxb s.idx.val b, idx := s.idx + 1, pending := q, draws := s.draws + 1 }
          hb hp hi hroom (by show s.tmr.toNat + (frameLen s.variant - (s.idx + 1).val) ≤ n; omega)
        refine ⟨k + 1, A0 ++ A, d, x, r, ?_, ?_⟩
        · rw [← List.append_assoc, hq, List.cons_append, e, List.take_succ_cons, List.length_cons, hr]
          simp only [hv]
          omega
        · rw [← List.append_assoc, hq, List.cons_append, e, run_step hs]
          simp only [takeByte, List.take_succ_cons, List.drop_succ_cons, Memory.writeBlock]
          rw [← hp, hk]
          simp only [hv]

end Sys2Proof.Machine
end

