-- ==== Sys2Proof/Tests/Slice0.lean ====
section
/-! SUPPORT. The model's own tests: expected results from 95_test_vectors.md and the encodings of 30_encoding.md, one step
each; and for every statement with hypotheses a concrete case that meets them. -/

namespace Sys2Proof.Tests

open Sys2Proof Sys2Proof.Machine

/-- An idle state with no open values: nothing pending, `TIMEOUT` 2. -/
def quiet (v : Variant) (a : BitVec 1) : State :=
  { State.reset with variant := v, ackEn := a, timeout := 2#16, pending := [] }

/-- The same with a block in `RXB`. -/
def holding (R : Bytes) : State := { quiet .std 0#1 with rxb := Memory.writeBlock [] 0 R }

/-- The same with a command byte at `TXB[3]`, as a query for it leaves it. -/
def asked (c : Byte) (v : Variant) : State := { quiet v 0#1 with txb := Memory.write [] 3 c }

/-- The same with the draw of the next bounded read scripted. -/
def replying (v : Variant) (A : Bytes) : State := { quiet v 0#1 with line := [A] }

/-- An idle state with one event to come. -/
def facing (e : Input) : State := { quiet .std 0#1 with inputs := [e] }

/-- A property of the next state, where there is one. -/
def gives {α : Type} (f : State → α) (o : Host.Outcome State Fault Refusal) : Option α :=
  match o with
  | .next t => some (f t)
  | .fault _ => none
  | .refused _ => none

/-- The ten bytes of `TXB` and its length. -/
def txView (s : State) : Bytes × TxLen := (Memory.block s.txb 10, s.txlen)

/-- What a QUERY leaves of its outcome. -/
def outcome (s : State) : Half × Option Failure × Nat := (s.result, s.fail, s.rxcnt.val)

/-! ### Well-formedness -/

theorem test_setvar_3_is_ill_formed : (Instr.setvar 3#2).wellFormed = false := by decide

theorem test_setvar_2_is_well_formed : (Instr.setvar 2#2).wellFormed = true := by decide

/-! ### Decoding: words of 30_encoding.md R53 and R54, and V-Q1 to V-Q15 -/

theorem test_decode_send : decode (.req32 0x10060014#32) = .ok (.send 0x06#8 0x00#8 0x14#8) := by decide

theorem test_decode_send_all_ones : decode (.req32 0x10FFFFFF#32) = .ok (.send 0xFF#8 0xFF#8 0xFF#8) := by decide

theorem test_decode_query : decode (.req32 0x20430000#32) = .ok (.query 0x43#8 0x00#8 0x00#8) := by decide

theorem test_decode_status : decode (.req32 0x30000000#32) = .ok .status := by decide

theorem test_decode_setvar :
    decode (.req32 0x40000000#32) = .ok (.setvar 0#2) ∧ decode (.req32 0x40000001#32) = .ok (.setvar 1#2) ∧
    decode (.req32 0x40000002#32) = .ok (.setvar 2#2) := by decide

theorem test_decode_setack :
    decode (.req32 0x50000000#32) = .ok (.setack 0#1) ∧ decode (.req32 0x50000001#32) = .ok (.setack 1#1) := by decide

theorem test_decode_settmo :
    decode (.req32 0x6000015E#32) = .ok (.settmo 350#16) ∧ decode (.req32 0x60000000#32) = .ok (.settmo 0#16) ∧
    decode (.req32 0x6000FFFF#32) = .ok (.settmo 65535#16) := by decide

theorem test_decode_reserved_op :
    decode (.req32 0x00000000#32) = .error (.reservedOp 0x0#4) ∧
    decode (.req32 0x70000000#32) = .error (.reservedOp 0x7#4) ∧
    decode (.req32 0xF0000000#32) = .error (.reservedOp 0xF#4) := by decide

theorem test_decode_reserved_fields :
    decode (.req32 0x40000003#32) = .error .reservedVariant ∧ decode (.req32 0x11060014#32) = .error .mustBeZero ∧
    decode (.req32 0x30000001#32) = .error .mustBeZero ∧ decode (.req32 0x50000002#32) = .error .mustBeZero ∧
    decode (.req32 0x60010000#32) = .error .mustBeZero := by decide

/-- V-E2: the acknowledgement flag stands at position 4 and enters the checksum. -/
theorem test_decode_encStd :
    decode (.outFrame .std [0x7E#8, 0xFF#8, 0x06#8, 0x06#8, 0x01#8, 0x00#8, 0x14#8, 0xFE#8, 0xE0#8, 0xEF#8])
      = .ok (.encStd 0x06#8 0x00#8 0x14#8 1#1) := by decide

/-- V-E13. -/
theorem test_decode_encAlt :
    decode (.outFrame .alt [0x7E#8, 0xFF#8, 0x06#8, 0x0F#8, 0x01#8, 0x63#8, 0xFF#8, 0xFD#8, 0x89#8, 0xEF#8])
      = .ok (.encAlt 0x0F#8 0x63#8 0xFF#8 1#1) := by decide

/-- V-E4. -/
theorem test_decode_encNock :
    decode (.outFrame .nock [0x7E#8, 0xFF#8, 0x06#8, 0x43#8, 0x01#8, 0x00#8, 0x00#8, 0xEF#8])
      = .ok (.encNock 0x43#8 0x00#8 0x00#8 1#1) := by decide

/-- S1 as printed: its checksum bytes are those of no frame `encode` builds (90_conflicts.md C2). -/
theorem test_decode_printed_s1_is_no_frame :
    decode (.outFrame .std [0x7E#8, 0xFF#8, 0x06#8, 0x06#8, 0x00#8, 0x00#8, 0x14#8, 0xFF#8, 0xD4#8, 0xEF#8])
      = .error (.notOutbound .std) := by decide

/-- S2 is a block of the row all the same: positions 7 and 8 are free. -/
theorem test_decode_rxF10 :
    decode (.inFrame [0x7E#8, 0xFF#8, 0x06#8, 0x43#8, 0x00#8, 0x00#8, 0x1E#8, 0xFF#8, 0xC2#8, 0xEF#8])
      = .ok (.rxF10 0x43#8 0x00#8 0x00#8 0x1E#8 0xFF#8 0xC2#8) := by decide

theorem test_decode_rxF8 :
    decode (.inFrame [0x7E#8, 0xFF#8, 0x06#8, 0x43#8, 0x00#8, 0x00#8, 0x1E#8, 0xEF#8])
      = .ok (.rxF8 0x43#8 0x00#8 0x00#8 0x1E#8) := by decide

theorem test_decode_status_codes :
    decode (.code 0x40#8 0) = .ok .stError ∧ decode (.code 0x41#8 0) = .ok .stAccepted ∧
    decode (.code 0x3D#8 0) = .ok .stPlaydone ∧ decode (.code 0x3F#8 0) = .ok .stReady ∧
    decode (.code 0x3E#8 0) = .error (.unlistedCode 0x3E#8) := by decide

theorem test_decode_command_codes :
    decode (.code 0x06#8 31) = .ok (.cmdSetvolume 31) ∧ decode (.code 0x43#8 0) = .ok .cmdQueryvolume ∧
    decode (.code 0x0B#8 0x270F) = .ok (.cmd0B 0x27#8 0x0F#8) := by decide

theorem test_table_words :
    decodeTableWord 32 0x6000015E = some (.settmo 350#16) ∧
    decodeTableWord 80 0x7EFF064300001EFFC2EF = some (.rxF10 0x43#8 0x00#8 0x00#8 0x1E#8 0xFF#8 0xC2#8) ∧
    decodeTableWord 64 0x7EFF064300001EEF = some (.rxF8 0x43#8 0x00#8 0x00#8 0x1E#8) ∧
    decodeTableWord 8 0x3D = some .stPlaydone ∧ decodeTableWord 32 0x40000003 = none := by decide

/-! ### The framer -/

/-- V-E1, S1 corrected. -/
theorem test_encStd :
    gives (·.answer) (exec (.encStd 0x06#8 0x00#8 0x14#8 0#1) State.reset)
      = some (.frame [0x7E#8, 0xFF#8, 0x06#8, 0x06#8, 0x00#8, 0x00#8, 0x14#8, 0xFE#8, 0xE1#8, 0xEF#8]) := by decide

/-- V-E16: operands equal to the markers. -/
theorem test_encStd_markers :
    gives (·.answer) (exec (.encStd 0x7E#8 0xEF#8 0x7E#8 0#1) State.reset)
      = some (.frame [0x7E#8, 0xFF#8, 0x06#8, 0x7E#8, 0x00#8, 0xEF#8, 0x7E#8, 0xFD#8, 0x10#8, 0xEF#8]) := by decide

/-- V-E6: the largest sum. -/
theorem test_encAlt :
    gives (·.answer) (exec (.encAlt 0xFF#8 0xFF#8 0xFF#8 1#1) State.reset)
      = some (.frame [0x7E#8, 0xFF#8, 0x06#8, 0xFF#8, 0x01#8, 0xFF#8, 0xFF#8, 0xFB#8, 0xFD#8, 0xEF#8]) := by decide

/-- V-E11. -/
theorem test_encNock :
    gives (·.answer) (exec (.encNock 0x03#8 0x27#8 0x0F#8 0#1) State.reset)
      = some (.frame [0x7E#8, 0xFF#8, 0x06#8, 0x03#8, 0x00#8, 0x27#8, 0x0F#8, 0xEF#8]) := by decide

/-! ### The deframer: V-D rows -/

/-- V-D4, V-D8 to V-D12, V-D1: every reason, and success. -/
theorem test_decode_reasons :
    decodeBlock [0x7E#8, 0xFF#8, 0x06#8, 0x43#8] 0x43#8 .std = .fail .incomplete ∧
    decodeBlock [0x7F#8, 0xFF#8, 0x06#8, 0x43#8, 0x00#8, 0x00#8, 0x1E#8, 0xFE#8, 0x9A#8, 0xEF#8] 0x43#8 .std
      = .fail .badStart ∧
    decodeBlock [0x7E#8, 0xFE#8, 0x06#8, 0x43#8, 0x00#8, 0x00#8, 0x1E#8, 0xFE#8, 0x9A#8, 0xEF#8] 0x43#8 .std
      = .fail .badVersion ∧
    decodeBlock [0x7E#8, 0xFF#8, 0x04#8, 0x43#8, 0x00#8, 0x00#8, 0x1E#8, 0xEF#8] 0x43#8 .nock = .fail .badLength ∧
    decodeBlock [0x7E#8, 0xFF#8, 0x06#8, 0x43#8, 0x00#8, 0x00#8, 0x1E#8, 0xFE#8, 0x9A#8, 0xEE#8] 0x43#8 .std
      = .fail .badEnd ∧
    decodeBlock [0x7E#8, 0xFF#8, 0x06#8, 0x3D#8, 0x00#8, 0x00#8, 0x01#8, 0xFE#8, 0xBD#8, 0xEF#8] 0x43#8 .std
      = .fail .mismatch ∧
    decodeBlock [0x7E#8, 0xFF#8, 0x06#8, 0x43#8, 0x00#8, 0x00#8, 0x1E#8, 0xFF#8, 0xC2#8, 0xEF#8] 0x43#8 .alt
      = .ok 0x001E#16 := by decide

/-- V-D25 to V-D27: the order of the checks. -/
theorem test_decode_order :
    decodeBlock [0x7E#8, 0xFE#8, 0x04#8, 0x44#8, 0x00#8, 0x00#8, 0x1E#8, 0xFE#8, 0x99#8, 0xEE#8] 0x43#8 .std
      = .fail .badVersion ∧
    decodeBlock [0x7E#8, 0xFF#8, 0x04#8, 0x44#8, 0x00#8, 0x00#8, 0x1E#8, 0xFE#8, 0x99#8, 0xEE#8] 0x43#8 .std
      = .fail .badLength ∧
    decodeBlock [0x7E#8, 0xFF#8, 0x06#8, 0x44#8, 0x00#8, 0x00#8, 0x1E#8, 0xFE#8, 0x99#8, 0xEE#8] 0x43#8 .std
      = .fail .badEnd := by decide

/-- V-D1 and V-D12 as rows. -/
theorem test_rxF10 :
    gives (·.answer) (exec (.rxF10 0x43#8 0x00#8 0x00#8 0x1E#8 0xFF#8 0xC2#8) (asked 0x43#8 .std))
      = some (.decoded (.ok 0x001E#16)) ∧
    gives (·.answer) (exec (.rxF10 0x3D#8 0x00#8 0x00#8 0x01#8 0xFE#8 0xBD#8) (asked 0x43#8 .std))
      = some (.decoded (.fail .mismatch)) := by decide

/-- V-D3: ten bytes before a no-checksum DFC. -/
theorem test_rxF10_under_nock :
    gives (·.answer) (exec (.rxF10 0x43#8 0x00#8 0x00#8 0x1E#8 0xFF#8 0xC2#8) (asked 0x43#8 .nock))
      = some (.decoded (.fail .incomplete)) := by decide

/-- V-D16 and V-D17. -/
theorem test_rxF8 :
    gives (·.answer) (exec (.rxF8 0x43#8 0x00#8 0x00#8 0x1E#8) (asked 0x43#8 .nock))
      = some (.decoded (.ok 0x001E#16)) ∧
    gives (·.answer) (exec (.rxF8 0x43#8 0x00#8 0x00#8 0x1E#8) (asked 0x43#8 .std))
      = some (.decoded (.fail .incomplete)) := by decide

/-- V-D15, presented as a block: no row matches it, and it is judged. -/
theorem test_malformed_block_is_judged :
    gives (·.answer) (step { asked 0x43#8 .std with inputs := [.call (.inFrame (List.replicate 10 0x00#8))] })
      = some (.decoded (.fail .badStart)) := by decide

/-! ### SEND and QUERY -/

/-- P1. -/
theorem test_send :
    gives (fun t => (txView t, t.out, t.rxcnt.val)) (exec (.send 0x06#8 0x00#8 0x14#8) State.reset)
      = some (([0x7E#8, 0xFF#8, 0x06#8, 0x06#8, 0x00#8, 0x00#8, 0x14#8, 0xFE#8, 0xE1#8, 0xEF#8], .ten),
          [0x7E#8, 0xFF#8, 0x06#8, 0x06#8, 0x00#8, 0x00#8, 0x14#8, 0xFE#8, 0xE1#8, 0xEF#8], 0) := by decide

/-- V-C6, its last operation: positions 8 and 9 of `TXB` keep what the longer frame left. -/
theorem test_send_nock_keeps_tail :
    gives txView (exec (.send 0x43#8 0x00#8 0x00#8) { quiet .nock 0#1 with
        txb := Memory.writeBlock [] 0
          [0x7E#8, 0xFF#8, 0x06#8, 0x06#8, 0x00#8, 0x00#8, 0x14#8, 0xFE#8, 0xE1#8, 0xEF#8] })
      = some ([0x7E#8, 0xFF#8, 0x06#8, 0x43#8, 0x00#8, 0x00#8, 0x00#8, 0xEF#8, 0xE1#8, 0xEF#8], .eight) := by decide

/-- P2, its QUERY. -/
theorem test_query :
    gives (fun t => (outcome t, t.answer, Memory.block t.rxb 10)) (exec (.query 0x43#8 0x00#8 0x00#8)
        (replying .std [0x7E#8, 0xFF#8, 0x06#8, 0x43#8, 0x00#8, 0x00#8, 0x1E#8, 0xFF#8, 0xC2#8, 0xEF#8]))
      = some ((0x001E#16, none, 10), .result 0x001E#16,
          [0x7E#8, 0xFF#8, 0x06#8, 0x43#8, 0x00#8, 0x00#8, 0x1E#8, 0xFF#8, 0xC2#8, 0xEF#8]) := by decide

/-- P4, its last QUERY: an acknowledgement gets in the way and the real reply stays pending. -/
theorem test_query_acknowledged :
    gives (fun t => (outcome t, t.pending)) (exec (.query 0x43#8 0x00#8 0x00#8)
        (replying .nock [0x7E#8, 0xFF#8, 0x06#8, 0x41#8, 0x00#8, 0x00#8, 0x00#8, 0xEF#8,
          0x7E#8, 0xFF#8, 0x06#8, 0x43#8, 0x00#8, 0x00#8, 0x1E#8, 0xEF#8]))
      = some ((0x0000#16, some .mismatch, 8),
          [0x7E#8, 0xFF#8, 0x06#8, 0x43#8, 0x00#8, 0x00#8, 0x1E#8, 0xEF#8]) := by decide

/-! ### The status inspector and the configuration operations -/

/-- V-S1. -/
theorem test_status_error :
    gives (·.answer) (exec .status
        (holding [0x7E#8, 0xFF#8, 0x06#8, 0x40#8, 0x00#8, 0x00#8, 0x06#8, 0xFE#8, 0xB5#8, 0xEF#8]))
      = some (.status 0x106#11) := by decide

/-- V-S3: the detail is the error's alone. -/
theorem test_status_playdone :
    gives (·.answer) (exec .status
        (holding [0x7E#8, 0xFF#8, 0x06#8, 0x3D#8, 0x00#8, 0x00#8, 0x01#8, 0xFE#8, 0xBD#8, 0xEF#8]))
      = some (.status 0x300#11) := by decide

/-- V-C1. -/
theorem test_setvar : gives (·.variant) (exec (.setvar 2#2) State.reset) = some .nock := by decide

theorem test_setvar_3_refused : exec (.setvar 3#2) State.reset = .refused .reservedVariant := by rfl

/-- V-C2. -/
theorem test_setack : gives (·.ackEn) (exec (.setack 1#1) State.reset) = some 1#1 := by decide

/-- V-C3, V-Q7. -/
theorem test_settmo :
    gives (·.timeout) (exec (.settmo 350#16) State.reset) = some 0x015E#16 ∧
    gives (·.timeout) (exec (.settmo 0xFFFF#16) State.reset) = some 0xFFFF#16 := by decide

/-- Byte 6 of V-S1 alone. -/
def detailed : State := { quiet .std 0#1 with rxb := [(6, 0x06#8)] }

/-- The four codes, beside byte 6 of V-S1. -/
theorem test_status_rows :
    gives (·.answer) (exec .stError detailed) = some (.status 0x106#11) ∧
    gives (·.answer) (exec .stAccepted detailed) = some (.status 0x200#11) ∧
    gives (·.answer) (exec .stPlaydone detailed) = some (.status 0x300#11) ∧
    gives (·.answer) (exec .stReady detailed) = some (.status 0x400#11) := by decide

/-! ### The wrappers -/

/-- S6, V-E14: 31 is sent as 30. -/
theorem test_setvolume_clamps_above :
    gives (·.out) (exec (.cmdSetvolume 31) State.reset)
      = some [0x7E#8, 0xFF#8, 0x06#8, 0x06#8, 0x00#8, 0x00#8, 0x1E#8, 0xFE#8, 0xD7#8, 0xEF#8] := by decide

/-- A negative argument is sent as 0 (44_wrapper_pseudo_ops.md R100), under `NOCK`. -/
theorem test_setvolume_clamps_below :
    gives (·.out) (exec (.cmdSetvolume (-5)) (quiet .nock 0#1))
      = some [0x7E#8, 0xFF#8, 0x06#8, 0x06#8, 0x00#8, 0x00#8, 0x00#8, 0xEF#8] := by decide

/-- P2 through the wrapper: the frame of V-E3 goes out, 30 comes back. -/
theorem test_queryvolume :
    gives (fun t => (t.out, outcome t)) (exec .cmdQueryvolume
        (replying .std [0x7E#8, 0xFF#8, 0x06#8, 0x43#8, 0x00#8, 0x00#8, 0x1E#8, 0xFF#8, 0xC2#8, 0xEF#8]))
      = some ([0x7E#8, 0xFF#8, 0x06#8, 0x43#8, 0x00#8, 0x00#8, 0x00#8, 0xFE#8, 0xB8#8, 0xEF#8],
          (0x001E#16, none, 10)) := by decide

/-- V-E17. -/
theorem test_cmd0B :
    gives (·.out) (exec (.cmd0B 0x00#8 0x00#8) State.reset)
      = some [0x7E#8, 0xFF#8, 0x06#8, 0x0B#8, 0x00#8, 0x00#8, 0x00#8, 0xFE#8, 0xF0#8, 0xEF#8] := by decide

/-- A mode-affecting wrapper is an action, and the host then waits 200 ms and the variant's extra delay (R105, R130). -/
theorem test_setSource_is_an_action :
    let r := modeCall .setSource 0x22#8 0 255 (fun _ => 0x00#8) (fun v => lo8 (trunc16 v)) 2 (quiet .nock 0#1)
    r.1.out = [0x7E#8, 0xFF#8, 0x06#8, 0x22#8, 0x00#8, 0x00#8, 0x02#8, 0xEF#8] ∧
    r.2 = 200 + Config.variantExtraSettleMs .nock := ⟨rfl, rfl⟩

/-- getTotalFolders is a query, whatever its code (R106). -/
theorem test_getTotalFolders_is_a_query :
    wrapperCall (getTotalFoldersWrapper 0x4A#8 0x00#8 0x00#8) 7 (quiet .std 0#1)
      = queryNext 0x4A#8 0x00#8 0x00#8 (quiet .std 0#1) := rfl

/-- playTrack's clamping (S4, S5), whatever its code and placement: here the placement of `hi8` and `lo8`. -/
theorem test_playTrack_data :
    wrapperData (playTrackWrapper 0x24#8 (fun v => hi8 (trunc16 v)) (fun v => lo8 (trunc16 v))) 10000 = (0x27#8, 0x0F#8) ∧
    wrapperData (playTrackWrapper 0x24#8 (fun v => hi8 (trunc16 v)) (fun v => lo8 (trunc16 v))) 0 = (0x00#8, 0x01#8) := by
  decide

/-! ### Steps -/

theorem test_reset_buffers_canonical : Memory.wf State.reset.txb = true ∧ Memory.wf State.reset.rxb = true := by decide

theorem test_placed_word_runs :
    gives (·.variant) (step (State.reset.withFetchWord 32 0x40000002)) = some .nock := by decide

/-- A view read shows the code of the reason (10_state.md R18). -/
theorem test_fail_view :
    gives (·.answer) (step { facing (.busRead 0x02#8) with fail := some .mismatch }) = some (.view 6#32) := by decide

/-- The walk begins: the frame is loaded, nothing is on the wire, `BUSY` is 1. -/
theorem test_start_loads :
    gives (fun t => (t.busy, t.phase, t.txlen, t.out)) (step (facing (.start (.req32 0x10060014#32))))
      = some (true, .tx, .ten, []) := by decide

/-! ### Witnesses: for each statement with hypotheses, a case that meets them all -/

theorem witness_DecodeInvertsEncode : (Instr.send 0x06#8 0x00#8 0x14#8).wellFormed = true := by decide

theorem witness_EncodeInvertsDecode : decode (.code 0x43#8 0) = .ok .cmdQueryvolume := by decide

theorem witness_RequestWordTable :
    (0x10060014#32 &&& 0xFF000000#32 = 0x10000000#32) ∧ (0x204F0000#32 &&& 0xFF000000#32 = 0x20000000#32) ∧
    (0x40000002#32 &&& 0xFFFFFFFC#32 = 0x40000000#32 ∧ (0x40000002#32).extractLsb' 0 2 ≠ 3#2) ∧
    (0x50000001#32 &&& 0xFFFFFFFE#32 = 0x50000000#32) ∧ (0x6000FFFF#32 &&& 0xFFFF0000#32 = 0x60000000#32) := by decide

/-- One word for each way of being reserved (R54). -/
theorem witness_ReservedWord :
    ∀ w ∈ [0x0FFFFFFF#32, 0x70000000#32, 0xFFFFFFFF#32, 0x11000000#32, 0x28000000#32, 0x30000001#32, 0x40000003#32,
      0x40000004#32, 0x50000002#32, 0x60010000#32], ReservedWord w := by
  simp [ReservedWord]

/-- Words at the edge of the table that are not reserved. -/
theorem witness_not_ReservedWord :
    ∀ w ∈ [0x6000FFFF#32, 0x40000002#32, 0x30000000#32, 0x10FFFFFF#32, 0x50000001#32], ¬ ReservedWord w := by
  simp [ReservedWord]

theorem witness_ReservedWordRefused :
    (facing (.busWrite 0x00#8 0x11000000#32)).busy = false ∧ ReservedWord 0x11000000#32 ∧
    (facing (.busWrite 0x00#8 0x11000000#32)).inputs = [.busWrite 0x00#8 0x11000000#32] ∧
    (facing (.call (.req32 0x11000000#32))).inputs = [.call (.req32 0x11000000#32)] ∧
    (facing (.start (.req32 0x11000000#32))).inputs = [.start (.req32 0x11000000#32)] :=
  ⟨rfl, witness_ReservedWord _ (by decide), rfl, rfl, rfl⟩

theorem witness_StepRunsDecodedInstruction :
    (facing (.call (.req32 0x30000000#32))).busy = false ∧ decode (.req32 0x30000000#32) = .ok .status ∧
    (facing (.call (.req32 0x30000000#32))).inputs = [.call (.req32 0x30000000#32)] ∧
    (facing (.busWrite 0x00#8 0x30000000#32)).inputs = [.busWrite 0x00#8 0x30000000#32] := by decide

theorem witness_PlacedWordRunsNext : decodeTableWord 8 0x0B = some (.cmd0B 0x00#8 0x00#8) := by decide

theorem witness_StartBeginsWalk :
    (facing (.start (.code 0x43#8 0))).busy = false ∧ decode (.code 0x43#8 0) = .ok .cmdQueryvolume ∧
    transferOf .cmdQueryvolume = some (.query, 0x43#8, 0x00#8, 0x00#8) ∧
    (facing (.start (.code 0x43#8 0))).inputs = [.start (.code 0x43#8 0)] ∧
    decode (.req32 0x30000000#32) = .ok .status ∧ transferOf .status = none ∧
    (facing (.start (.req32 0x30000000#32))).inputs = [.start (.req32 0x30000000#32)] := by decide

theorem witness_checksum_variants : Variant.std ≠ .nock ∧ Variant.alt ≠ .nock := by decide

/-- Both ends of the checksum's range (V-E5, V-E6), and a low byte that is the end-marker (V-E15). -/
theorem witness_ChecksumRange :
    checksumStd 0x00#8 0x00#8 0x00#8 0#1 = 0xFEFB#16 ∧ checksumAlt 0xFF#8 0xFF#8 0xFF#8 1#1 = 0xFBFD#16 ∧
    checksumStd 0x07#8 0x00#8 0x05#8 0#1 = 0xFEEF#16 := by decide

theorem witness_DecodeIgnoresAckAndChecksum :
    decodeBlock ([0x7E#8, 0xFF#8, 0x06#8, 0x43#8, 0x00#8, 0x00#8, 0x1E#8, 0xFF#8, 0xC2#8, 0xEF#8].set 8 0x9A#8)
      0x43#8 .std = .ok 0x001E#16 ∧
    decodeBlock ([0x7E#8, 0xFF#8, 0x06#8, 0x43#8, 0x00#8, 0x00#8, 0x1E#8, 0xEF#8].set 4 0x01#8) 0x43#8 .nock
      = .ok 0x001E#16 := by decide

theorem witness_MixedVariants :
    (encodeFrame 0x43#8 0x00#8 0x00#8 0#1 .std).length = 10 ∧ (encodeFrame 0x43#8 0x00#8 0x00#8 0#1 .nock).length = 8 := by
  decide

/-- The reason a `NOCK` QUERY for 0x43 leaves when the line answers with the block. -/
def reasonFor (A : Bytes) : Option (Option Failure) :=
  gives (·.fail) (exec (.query 0x43#8 0x00#8 0x00#8) (replying .nock A))

/-- One malformed block of each length class. -/
theorem witness_MalformedBlockJudged :
    (facing (.call (.inFrame []))).busy = false ∧ decode (.inFrame []) = .error (.malformed .incomplete) ∧
    decode (.inFrame (List.replicate 8 0x7E#8)) = .error (.malformed .badVersion) ∧
    decode (.inFrame (List.replicate 10 0x00#8)) = .error (.malformed .badStart) ∧
    (facing (.call (.inFrame []))).inputs = [.call (.inFrame [])] ∧
    (facing (.start (.inFrame []))).inputs = [.start (.inFrame [])] := by decide

/-- Each reason of R110 and none, as a QUERY for 0x43 leaves them. -/
theorem witness_QueryReasonsFromRegisters :
    reasonFor [0x7E#8, 0xFF#8, 0x06#8, 0x43#8, 0x00#8, 0x00#8, 0x1E#8] = some (some .incomplete) ∧
    reasonFor [0x7F#8, 0xFF#8, 0x06#8, 0x43#8, 0x00#8, 0x00#8, 0x1E#8, 0xEF#8] = some (some .badStart) ∧
    reasonFor [0x7E#8, 0xFE#8, 0x06#8, 0x43#8, 0x00#8, 0x00#8, 0x1E#8, 0xEF#8] = some (some .badVersion) ∧
    reasonFor [0x7E#8, 0xFF#8, 0x05#8, 0x43#8, 0x00#8, 0x00#8, 0x1E#8, 0xEF#8] = some (some .badLength) ∧
    reasonFor [0x7E#8, 0xFF#8, 0x06#8, 0x43#8, 0x00#8, 0x00#8, 0x1E#8, 0xEE#8] = some (some .badEnd) ∧
    reasonFor [0x7E#8, 0xFF#8, 0x06#8, 0x41#8, 0x00#8, 0x00#8, 0x1E#8, 0xEF#8] = some (some .mismatch) ∧
    reasonFor [0x7E#8, 0xFF#8, 0x06#8, 0x43#8, 0x00#8, 0x00#8, 0x1E#8, 0xEF#8] = some none := by decide

theorem witness_StatusReadsBufferedBytes :
    (facing (.busRead 0x03#8)).busy = false ∧ (facing (.busRead 0x03#8)).inputs = [.busRead 0x03#8] := by decide

/-- The four bytes of `RXB[3]` that have a row. -/
theorem witness_StatusIsRowOfBufferedByte :
    Memory.read (holding [0#8, 0#8, 0#8, 0x40#8]).rxb 3 = 0x40#8 ∧
    Memory.read (holding [0#8, 0#8, 0#8, 0x41#8]).rxb 3 = 0x41#8 ∧
    Memory.read (holding [0#8, 0#8, 0#8, 0x3D#8]).rxb 3 = 0x3D#8 ∧
    Memory.read (holding [0#8, 0#8, 0#8, 0x3F#8]).rxb 3 = 0x3F#8 := by decide

theorem witness_SetVolumeSaturates : (30 : Int) ≤ 30 ∧ (30 : Int) ≤ 31 ∧ (0 : Int) ≤ 0 ∧ (-1 : Int) ≤ 0 := by decide

theorem witness_WrappersSaturate :
    setVolumeWrapper.lo ≤ setVolumeWrapper.hi ∧ (0 : Int) ≤ setVolumeWrapper.lo ∧ setVolumeWrapper.hi ≤ 30 ∧
    wrapperData setVolumeWrapper 0 = (0x00#8, 0x00#8) ∧ wrapperData setVolumeWrapper 30 = (0x00#8, 0x1E#8) := by decide

theorem witness_OnlyQueryWritesReceiveSide :
    (∃ t, exec (.send 0x06#8 0x00#8 0x14#8) State.reset = .next t) ∧
    (∀ cmd dh dl, Instr.send 0x06#8 0x00#8 0x14#8 ≠ .query cmd dh dl) ∧
    Instr.send 0x06#8 0x00#8 0x14#8 ≠ .cmdQueryvolume :=
  ⟨⟨_, rfl⟩, fun _ _ _ h => (nomatch h), fun h => (nomatch h)⟩

theorem witness_ControlRegistersHaveOneWriter :
    (∃ t, exec .stReady State.reset = .next t) ∧ (∀ v, Instr.stReady ≠ .setvar v) ∧ (∀ a, Instr.stReady ≠ .setack a) ∧
    ∀ x, Instr.stReady ≠ .settmo x :=
  ⟨⟨_, rfl⟩, fun _ h => (nomatch h), fun _ h => (nomatch h), fun _ h => (nomatch h)⟩

theorem witness_OnlyTransfersWriteTransmitSide :
    (∃ t, exec .status State.reset = .next t) ∧ transferOf .status = none := ⟨⟨_, rfl⟩, rfl⟩

theorem witness_ResetInputKeepsStreams : (facing .reset).inputs = .reset :: [] := rfl

theorem reset_inv : StateInv State.reset where
  txb_wf := rfl
  rxb_wf := rfl
  busy_iff := by decide
  cur_fits := rfl
  txlen_busy := by decide
  idx_busy := by decide
  room_rx := by decide
  timer_rx := by decide
  count_check := by decide
  sentinel := by decide
  whole_block := by intro r h; cases h

theorem witness_InvKeptByEveryStep :
    StateInv State.reset ∧ ∃ t, step (State.reset) = .next t := ⟨reset_inv, _, rfl⟩

theorem witness_OutOnlyGrows : ∃ t, step (facing (.call (.req32 0x10060014#32))) = .next t := ⟨_, rfl⟩

/-- One refused step for each kind of R116 the model can meet. -/
theorem witness_RefusalsAreUsageViolations :
    step (facing (.call (.req32 0x00000000#32))) = .refused (.undecodable (.reservedOp 0#4)) ∧
    step (facing (.start (.code 0x00#8 0))) = .refused (.undecodable (.unlistedCode 0x00#8)) ∧
    step (facing (.busWrite 0x00#8 0x40000003#32)) = .refused (.undecodable .reservedVariant) ∧
    step (facing (.busRead 0x00#8)) = .refused (.writeOnlyIndex 0x00#8) ∧
    step (facing (.busRead 0x0A#8)) = .refused (.noSuchIndex 0x0A#8) ∧
    step (facing (.busWrite 0x29#8 0#32)) = .refused (.readOnlyIndex 0x29#8) ∧
    step (facing (.busWrite 0x2A#8 0#32)) = .refused (.noSuchIndex 0x2A#8) := ⟨rfl, rfl, rfl, rfl, rfl, rfl, rfl⟩

theorem witness_ReadViewsShowRegisters :
    (quiet .alt 1#1).busy = false ∧ 0 < 10 ∧ 9 < 10 ∧ { quiet .alt 1#1 with busy := true }.busy = true := by decide

/-- The ends of the listed indices, for a read while busy. -/
theorem witness_busy_views : ∀ a ∈ [0x01#8, 0x09#8, 0x10#8, 0x19#8, 0x20#8, 0x29#8], ListedIndex a := by
  simp [ListedIndex]

/-- The bounds of the listed indices and their neighbours, both ways. -/
theorem witness_StrayAccessesRefused :
    (facing (.busRead 0x0A#8)).busy = false ∧ (facing (.busRead 0x0A#8)).inputs = [.busRead 0x0A#8] ∧
    (facing (.busWrite 0x0A#8 0#32)).inputs = [.busWrite 0x0A#8 0#32] ∧
    (∀ a ∈ [0x01#8, 0x09#8, 0x10#8, 0x19#8, 0x20#8, 0x29#8], ListedIndex a) ∧
    ∀ a ∈ [0x00#8, 0x0A#8, 0x0F#8, 0x1A#8, 0x1F#8, 0x2A#8, 0xFF#8], ¬ ListedIndex a := by
  simp [ListedIndex, facing, quiet, State.reset]

/-- A state in the middle of a transfer: the walk of an operation at the position given. -/
def walking (x : Transfer) (p : Phase) (i : Fin 11) (ins : List Input) : State :=
  { beginTransfer x 0x43#8 0x00#8 0x00#8 (quiet .nock 0#1) with
    phase := p, idx := i, tmr := 2#16, rxcnt := i, inputs := ins }

theorem walking_inv (x : Transfer) (p : Phase) (i : Fin 11) (ins : List Input) (hp : phaseTransfer p (some x) = true)
    (hi : i.val ≤ 8) (hr : p = .rx → i.val < 8) : StateInv (walking x p i ins) where
  txb_wf := rfl
  rxb_wf := rfl
  busy_iff := ⟨fun _ h => by rw [show p = .idle from h] at hp; simp [phaseTransfer] at hp, fun _ => rfl⟩
  cur_fits := hp
  txlen_busy := fun _ => rfl
  idx_busy := fun _ => hi
  room_rx := hr
  timer_rx := fun _ h => absurd h (by simp [walking])
  count_check := fun _ => rfl
  sentinel := fun h => absurd rfl h
  whole_block := by intro r h; cases h

/-- R21, R98: bytes pending when the timer comes to 0 are taken, as many as the block lacks, and the rest stays pending. -/
theorem test_read_closes_with_what_is_pending :
    gives (fun t => (t.phase, t.rxcnt.val, t.pending))
      (step { walking .query .rx 6 [.tick] with tmr := 1#16, pending := [0x1E#8, 0xEF#8, 0x7E#8] })
      = some (.check, 8, [0x7E#8]) := by decide

/-- R118, R42: a byte that comes after the deadline is not taken by that read. -/
theorem test_late_byte_stays_pending :
    gives (fun t => (t.rxcnt.val, t.pending))
      (run 3 { walking .query .rx 3 [.tick, .arrives [0x00#8], .proceed] with tmr := 1#16 }) = some (3, [0x00#8]) := by
  decide

/-- R43: bytes arrive between two bytes of a frame going out. -/
theorem test_arrival_inside_a_send :
    gives (fun t => (t.out, t.pending)) (run 3 (walking .send .tx 0 [.proceed, .arrives [0x41#8], .proceed]))
      = some ([0x7E#8, 0xFF#8], [0x41#8]) := by decide

theorem witness_RequestHeldWhileBusy :
    (walking .send .tx 8 [.call (.req32 0x30000000#32)]).busy = true ∧
    (walking .send .tx 8 [.call (.req32 0x30000000#32)]).inputs = [.call (.req32 0x30000000#32)] ∧
    (walking .query .rx 3 [.start (.req32 0x30000000#32)]).inputs = [.start (.req32 0x30000000#32)] ∧
    (walking .query .flush 0 [.busWrite 0x00#8 0x30000000#32]).inputs = [.busWrite 0x00#8 0x30000000#32] := by decide

theorem witness_ArrivalChangesPendingOnly : (facing (.arrives [0x7E#8])).inputs = .arrives [0x7E#8] :: [] := rfl

theorem witness_IdleChangesNoRegister : (quiet .std 0#1).busy = false ∧ (quiet .std 0#1).inputs = [] := by decide

/-- The two ends of phase TX: back to IDLE for a SEND, on to FLUSH for a QUERY. -/
theorem witness_PhaseWalkFollowsArcs :
    StateInv (walking .send .tx 8 []) ∧ StateInv (walking .query .tx 8 []) ∧
    gives (·.phase) (step (walking .send .tx 8 [])) = some .idle ∧
    gives (·.phase) (step (walking .query .tx 8 [])) = some .flush ∧
    (walking .send .tx 8 []).inputs.head? ≠ some .reset :=
  ⟨walking_inv _ _ _ _ rfl (by decide) (by decide), walking_inv _ _ _ _ rfl (by decide) (by decide), rfl, rfl, by decide⟩

/-- Into RX; in RX: a byte taken, the last byte (the block is full), a millisecond, the last millisecond, the timer at 0 as
the read begins; and outside RX. -/
theorem witness_TimerRunsOnlyInRx :
    StateInv (walking .query .flush 0 []) ∧ StateInv (walking .query .rx 0 []) ∧ StateInv (walking .query .tx 0 []) ∧
    gives (fun t => (t.phase, t.tmr)) (step (walking .query .flush 0 [])) = some (.rx, 2#16) ∧
    gives (fun t => (t.phase, t.tmr)) (step { walking .query .rx 0 [.proceed] with pending := [0x7E#8] })
      = some (.rx, 2#16) ∧
    gives (fun t => (t.phase, t.rxcnt.val, t.tmr)) (step { walking .query .rx 7 [.proceed] with pending := [0xEF#8] })
      = some (.check, 8, 2#16) ∧
    gives (fun t => (t.phase, t.tmr)) (step (walking .query .rx 3 [.tick])) = some (.rx, 1#16) ∧
    gives (fun t => (t.phase, t.rxcnt.val)) (step { walking .query .rx 3 [.tick] with tmr := 1#16 }) = some (.check, 3) ∧
    gives (fun t => (t.phase, t.rxcnt.val)) (step { walking .query .rx 3 [.proceed] with tmr := 0#16 })
      = some (.check, 3) ∧
    gives (fun t => (t.phase, t.tmr)) (step (walking .query .tx 0 [])) = some (.tx, 2#16) :=
  ⟨walking_inv _ _ _ _ rfl (by decide) (by decide), walking_inv _ _ _ _ rfl (by decide) (by decide),
    walking_inv _ _ _ _ rfl (by decide) (by decide), rfl, rfl, rfl, rfl, rfl, rfl, rfl⟩

theorem witness_BufferPositions :
    memRead .rxbuf 9 (quiet .std 0#1) = .ok 0x00#8 ∧ memRead .rxbuf 10 (quiet .std 0#1) = .error (.noSuchPosition .rxbuf 10) ∧
    (9 ≤ 9 ∧ 10 ≤ 10) := by decide

theorem facing_inv (e : Input) : StateInv (facing e) where
  txb_wf := rfl
  rxb_wf := rfl
  busy_iff := ⟨fun h => (nomatch h), fun h => absurd rfl h⟩
  cur_fits := rfl
  txlen_busy := fun h => by cases h
  idx_busy := fun h => by cases h
  room_rx := fun h => by cases h
  timer_rx := fun h => by cases h
  count_check := fun h => by cases h
  sentinel := fun h => absurd rfl h
  whole_block := by intro r h; cases h

theorem witness_PhasedSendRefinesSend :
    StateInv (facing (.start (.code 0x06#8 31))) ∧ (facing (.start (.code 0x06#8 31))).busy = false ∧
    (facing (.start (.code 0x06#8 31))).inputs = .start (.code 0x06#8 31) :: [] ∧ Held [] ∧
    decode (.code 0x06#8 31) = .ok (.cmdSetvolume 31) ∧
    transferOf (.cmdSetvolume 31) = some (.send, 0x06#8, 0x00#8, 0x1E#8) ∧
    transferOf (.send 0x06#8 0x00#8 0x14#8) = some (.send, 0x06#8, 0x00#8, 0x14#8) ∧
    transferOf (.cmd0B 0x00#8 0x00#8) = some (.send, 0x0B#8, 0x00#8, 0x00#8) :=
  ⟨facing_inv _, rfl, rfl, trivial, rfl, rfl, rfl, rfl⟩

theorem witness_PhasedQueryRefinesQuery :
    StateInv (facing (.start (.req32 0x20430000#32))) ∧ (facing (.start (.req32 0x20430000#32))).busy = false ∧
    (facing (.start (.req32 0x20430000#32))).inputs = .start (.req32 0x20430000#32) :: [] ∧ Held [] ∧
    decode (.req32 0x20430000#32) = .ok (.query 0x43#8 0x00#8 0x00#8) ∧
    transferOf (.query 0x43#8 0x00#8 0x00#8) = some (.query, 0x43#8, 0x00#8, 0x00#8) ∧
    transferOf .cmdQueryvolume = some (.query, 0x43#8, 0x00#8, 0x00#8) :=
  ⟨facing_inv _, rfl, rfl, trivial, rfl, rfl, rfl⟩

theorem witness_EveryOperationEnds :
    StateInv (walking .query .rx 3 [.call (.req32 0x30000000#32)]) ∧
    Held (walking .query .rx 3 [.call (.req32 0x30000000#32)]).inputs ∧
    (walking .query .rx 3 [.call (.req32 0x30000000#32)]).busy = true :=
  ⟨walking_inv _ _ _ _ rfl (by decide) (by decide), trivial, rfl⟩

end Sys2Proof.Tests
end

section
/-! PROOFS. The request words of 30_encoding.md section 5: what the decoder can answer (R53), that it rejects every
reserved word (R54), that an idle DFC refuses a rejected one, and that no word of any form decodes to the ill-formed
`setvar 3`. -/

namespace Sys2Proof.Machine

/-- The six rows a request word can be read as: its `op`, the bits that must be 0, and the instruction (R53). -/
inductive RequestRow (w : ReqWord) : Instr → Prop
  | send (op : reqOp w = 0x1#4) (zero : w.extractLsb' 24 4 = 0#4) :
      RequestRow w (.send (reqCmd w) (reqDh w) (reqDl w))
  | query (op : reqOp w = 0x2#4) (zero : w.extractLsb' 24 4 = 0#4) :
      RequestRow w (.query (reqCmd w) (reqDh w) (reqDl w))
  | status (op : reqOp w = 0x3#4) (zero : w.extractLsb' 0 28 = 0#28) : RequestRow w .status
  | setvar (op : reqOp w = 0x4#4) (zero : w.extractLsb' 2 26 = 0#26) (legal : reqV w ≠ 3#2) :
      RequestRow w (.setvar (reqV w))
  | setack (op : reqOp w = 0x5#4) (zero : w.extractLsb' 1 27 = 0#27) : RequestRow w (.setack (reqA w))
  | settmo (op : reqOp w = 0x6#4) (zero : w.extractLsb' 16 12 = 0#12) : RequestRow w (.settmo (reqT w))

/-- What the request decoder accepts is one of its six rows. -/
theorem decodeReq_ok {w : ReqWord} {i : Instr} (h : decodeReq w = .ok i) : RequestRow w i := by
  unfold decodeReq at h
  split_ifs at h with op zero op zero op zero op zero legal op zero op zero <;> injection h with h <;> subst h
  · exact .send op zero
  · exact .query op zero
  · exact .status op zero
  · exact .setvar op zero legal
  · exact .setack op zero
  · exact .settmo op zero

theorem toNat_reqOp (w : ReqWord) : (reqOp w).toNat = w.toNat / 2 ^ 28 := by
  have := w.isLt
  simp [reqOp, Nat.shiftRight_eq_div_pow]
  omega

theorem toNat_div_of_reqOp {w : ReqWord} {op : BitVec 4} (h : reqOp w = op) : w.toNat / 2 ^ 28 = op.toNat := by
  rw [← toNat_reqOp, h]

/-- The mask of a field of `len` bits from bit `start` meets no bit of a word whose field is 0. -/
theorem and_fieldMask_eq_zero {n : Nat} {w : BitVec n} {start len : Nat} (h : w.extractLsb' start len = 0#len) :
    w &&& ((BitVec.allOnes len).setWidth n <<< start) = 0#n := by
  ext i hi
  by_cases hf : start ≤ i ∧ i - start < len
  · have bit : w[i] = false := by
      have zero : (w.extractLsb' start len).getLsbD (i - start) = false := by rw [h, BitVec.getLsbD_zero]
      simpa [hf, hi] using zero
    simp [bit]
  · simp
    omega

/-- A word whose bits 1:0 are both set holds the reserved variant code 3. -/
theorem reqV_of_and_three {w : ReqWord} (h : w &&& 0x3#32 = 0x3#32) : reqV w = 3#2 := by
  have hv : reqV (w &&& 0x3#32) = reqV w &&& 3#2 := BitVec.extractLsb'_and
  rw [h] at hv
  rw [← BitVec.and_allOnes (x := reqV w)]
  exact hv.symm

/-- No word the decoder accepts is reserved (R54): in its row the must-be-zero bits are 0. -/
theorem RequestRow.not_reserved {w : ReqWord} {i : Instr} (h : RequestRow w i) : ¬ ReservedWord w := by
  cases h with
  | send op zero =>
    have hz : w &&& 0x0F000000#32 = 0#32 := and_fieldMask_eq_zero zero
    simp only [ReservedWord, toNat_div_of_reqOp op]
    simp [hz]
  | query op zero =>
    have hz : w &&& 0x0F000000#32 = 0#32 := and_fieldMask_eq_zero zero
    simp only [ReservedWord, toNat_div_of_reqOp op]
    simp [hz]
  | status op zero =>
    have hz : w &&& 0x0FFFFFFF#32 = 0#32 := and_fieldMask_eq_zero zero
    simp only [ReservedWord, toNat_div_of_reqOp op]
    simp [hz]
  | setvar op zero legal =>
    have hz : w &&& 0x0FFFFFFC#32 = 0#32 := and_fieldMask_eq_zero zero
    simp only [ReservedWord, toNat_div_of_reqOp op]
    simp [hz, mt reqV_of_and_three legal]
  | setack op zero =>
    have hz : w &&& 0x0FFFFFFE#32 = 0#32 := and_fieldMask_eq_zero zero
    simp only [ReservedWord, toNat_div_of_reqOp op]
    simp [hz]
  | settmo op zero =>
    have hz : w &&& 0x0FFF0000#32 = 0#32 := and_fieldMask_eq_zero zero
    simp only [ReservedWord, toNat_div_of_reqOp op]
    simp [hz]

/-- The decoder rejects every reserved request word (R54). -/
theorem decode_reserved {w : ReqWord} (hw : ReservedWord w) : ∃ r, decode (.req32 w) = .error r := by
  cases h : decodeReq w with
  | error r => exact ⟨r, h⟩
  | ok i => exact absurd hw (decodeReq_ok h).not_reserved

/-! ### An idle DFC takes the word presented to it -/

section Idle

variable {s : State} {rest : List Input} (hb : s.busy = false)
include hb

theorem step_call {p : Encoded} (hi : s.inputs = .call p :: rest) : step s = acceptCall p { s with inputs := rest } := by
  simp [step, stepOnce, hi, hb]

theorem step_start {p : Encoded} (hi : s.inputs = .start p :: rest) :
    step s = acceptStart p { s with inputs := rest } := by
  simp [step, stepOnce, hi, hb]

/-- A write to `REQ` presents its word as a call does (20_memory.md R35). -/
theorem step_writeReq {w : ReqWord} (hi : s.inputs = .busWrite 0x00#8 w :: rest) :
    step s = acceptCall (.req32 w) { s with inputs := rest } := by
  simp [step, stepOnce, hi, hb]

end Idle

theorem acceptCall_error {p : Encoded} {r : Reject} (h : decode p = .error r) (s : State) :
    acceptCall p s = rejected p r s := by
  simp [acceptCall, h]

theorem acceptStart_error {p : Encoded} {r : Reject} (h : decode p = .error r) (s : State) :
    acceptStart p s = rejected p r s := by
  simp [acceptStart, h]

/-- Settles O4: the decoder rejects the word, and in an idle state each of the three ways of presenting it comes to
`rejected`, which refuses a request word. -/
theorem reservedWordRefused : Obligations.ReservedWordRefused := by
  intro s w rest hb hw hi
  obtain ⟨r, hr⟩ := decode_reserved hw
  refine ⟨r, ?_⟩
  rcases hi with hi | hi | hi
  · rw [step_call hb hi, acceptCall_error hr]; rfl
  · rw [step_start hb hi, acceptStart_error hr]; rfl
  · rw [step_writeReq hb hi, acceptCall_error hr]; rfl

/-! ### What any form of word decodes to is well-formed -/

theorem RequestRow.wellFormed {w : ReqWord} {i : Instr} (h : RequestRow w i) : i.wellFormed = true := by
  cases h with
  | setvar op zero legal => exact bne_iff_ne.mpr legal
  | send => rfl
  | query => rfl
  | status => rfl
  | setack => rfl
  | settmo => rfl

theorem encInstr_wellFormed (v : Variant) (cmd dh dl : Byte) (ack : BitVec 1) :
    (encInstr v cmd dh dl ack).wellFormed = true := by
  cases v <;> rfl

theorem decodeOut_wellFormed {v : Variant} {F : Bytes} {i : Instr} (h : decodeOut v F = .ok i) :
    i.wellFormed = true := by
  simp only [decodeOut] at h
  split at h
  · cases h; exact encInstr_wellFormed ..
  · cases h

theorem decodeIn_wellFormed {R : Bytes} {i : Instr} (h : decodeIn R = .ok i) : i.wellFormed = true := by
  unfold decodeIn at h
  split at h
  · split at h <;> cases h
    rfl
  · split at h <;> cases h
    rfl

theorem plainCode_ok {c : Byte} {arg : Int} {i j : Instr} (h : plainCode c arg i = .ok j) : j = i := by
  unfold plainCode at h
  split at h <;> cases h
  rfl

theorem decodeCode_wellFormed {c : Byte} {arg : Int} {i : Instr} (h : decodeCode c arg = .ok i) :
    i.wellFormed = true := by
  unfold decodeCode at h
  split_ifs at h
  · cases plainCode_ok h; rfl
  · cases plainCode_ok h; rfl
  · cases plainCode_ok h; rfl
  · cases plainCode_ok h; rfl
  · cases h; rfl
  · cases plainCode_ok h; rfl
  · cases h; rfl

/-- A presented word of any form decodes to well-formed instructions only (30_encoding.md R54). -/
theorem decode_wellFormed {p : Encoded} {i : Instr} (h : decode p = .ok i) : i.wellFormed = true := by
  cases p with
  | req32 w => exact (decodeReq_ok h).wellFormed
  | outFrame v F => exact decodeOut_wellFormed h
  | inFrame R => exact decodeIn_wellFormed h
  | code c arg => exact decodeCode_wellFormed h

/-- Settles O29: the code 3 names no variant, and `setvar 3` is the term that is not well-formed. -/
theorem setvarReservedRefused : Obligations.SetvarReservedRefused := by
  intro s
  refine ⟨rfl, fun p h => ?_⟩
  have wf : Instr.wellFormed (.setvar 3#2) = true := decode_wellFormed h
  exact absurd wf (by decide)

end Sys2Proof.Machine
end

section
/-! PROOFS. The framer of 40_framer.md: what the three rows of `encode` hand back (R61 to R63), that the checksums of
`STD` and `ALT` are the same number (R66), its range and its bytes (R67), and the sum it completes (R68). -/

namespace Sys2Proof.Machine

/-! ### The three rows hand back the frame of their variant -/

/-- The row of a variant hands back the frame `encode` builds and changes nothing else (R60). -/
theorem exec_encInstr (v : Variant) (cmd dh dl : Byte) (ack : BitVec 1) (s : State) :
    exec (encInstr v cmd dh dl ack) s = .next { s with answer := .frame (encodeFrame cmd dh dl ack v) } := by
  cases v <;> rfl

/-- Settles O9: the bytes written out are the definition of the `STD` frame. -/
theorem encStdReturnsFrame : Obligations.EncStdReturnsFrame :=
  exec_encInstr .std

/-- Settles O10: the bytes written out are the definition of the `ALT` frame. -/
theorem encAltReturnsFrame : Obligations.EncAltReturnsFrame :=
  exec_encInstr .alt

/-- Settles O11: the bytes written out are the definition of the `NOCK` frame. -/
theorem encNockReturnsFrame : Obligations.EncNockReturnsFrame :=
  exec_encInstr .nock

/-! ### The checksum: one number under `STD` and `ALT`, its range, its bytes -/

section Checksum

variable (cmd dh dl : Byte) (ack : BitVec 1)

/-- The two formulas for the checksum give one number (R66): both are `65536 - S`. -/
theorem checksumAlt_eq_checksumStd : checksumAlt cmd dh dl ack = checksumStd cmd dh dl ack := by
  have hstd := toNat_checksumStd cmd dh dl ack
  have halt := toNat_checksumAlt cmd dh dl ack
  apply BitVec.eq_of_toNat_eq
  omega

/-- The range of `S` (R64) turned into the range of `65536 - S` (R67). -/
theorem checksumStd_bounds :
    0xFBFD ≤ (checksumStd cmd dh dl ack).toNat ∧ (checksumStd cmd dh dl ack).toNat ≤ 0xFEFB := by
  have hsum := checksumSum_bounds cmd dh dl ack
  have hck := toNat_checksumStd cmd dh dl ack
  omega

theorem hi8_checksumStd_cases :
    hi8 (checksumStd cmd dh dl ack) = 0xFB#8 ∨ hi8 (checksumStd cmd dh dl ack) = 0xFC#8 ∨
      hi8 (checksumStd cmd dh dl ack) = 0xFD#8 ∨ hi8 (checksumStd cmd dh dl ack) = 0xFE#8 := by
  have hck := checksumStd_bounds cmd dh dl ack
  simp only [← BitVec.toNat_inj, toNat_hi8, BitVec.reduceToNat]
  omega

theorem hi8_checksumStd_ne_endMarker : hi8 (checksumStd cmd dh dl ack) ≠ endMarker := by
  rcases hi8_checksumStd_cases cmd dh dl ack with h | h | h | h <;> rw [h] <;> decide

/-- With the other operands 0 the checksum is `65536 - 261 - cmd`, so the codes run through every low byte (R67). -/
theorem lo8_checksumStd_surjective (b : Byte) : lo8 (checksumStd (251#8 - b) 0#8 0#8 0#1) = b := by
  have hck := toNat_checksumStd (251#8 - b) 0#8 0#8 0#1
  simp only [checksumSum, BitVec.toNat_sub, BitVec.reduceToNat] at hck
  have hb := b.isLt
  apply BitVec.eq_of_toNat_eq
  rw [toNat_lo8]
  omega

end Checksum

/-! ### The bytes of a built frame -/

section Frame

variable (cmd dh dl : Byte) (ack : BitVec 1) {v : Variant}

/-- Positions 1 to 6 of a frame add up to the checksum sum, in every variant (R64). -/
theorem sum_encodeFrame (v : Variant) :
    let F := encodeFrame cmd dh dl ack v
    (((blockByte F 1).toNat + (blockByte F 2).toNat + (blockByte F 3).toNat + (blockByte F 4).toNat +
      (blockByte F 5).toNat + (blockByte F 6).toNat : Nat) : Int) = checksumSum cmd dh dl ack := by
  have hack : (ackByte ack).toNat = ack.toNat := BitVec.toNat_setWidth_of_le (by decide)
  change ((0xFF + 0x06 + cmd.toNat + (ackByte ack).toNat + dh.toNat + dl.toNat : Nat) : Int) = _
  rw [hack]
  rfl

/-- A variant with a checksum builds the `STD` frame (R66). -/
theorem encodeFrame_eq_std (hv : v ≠ .nock) :
    encodeFrame cmd dh dl ack v = encodeFrame cmd dh dl ack .std := by
  cases v with
  | std => rfl
  | alt => simp only [encodeFrame, frameTail, checksumAlt_eq_checksumStd]
  | nock => exact absurd rfl hv

/-- Positions 7 and 8 of the `STD` frame hold the checksum, the high byte first (R61). -/
theorem be16_encodeFrame_std :
    be16 (blockByte (encodeFrame cmd dh dl ack .std) 7) (blockByte (encodeFrame cmd dh dl ack .std) 8) =
      checksumStd cmd dh dl ack :=
  be16_hi8_lo8 (checksumStd cmd dh dl ack)

/-- `NOCK` finds no fault in the seven leading bytes, so the eighth decides (41_deframer.md R71 to R75). -/
theorem decodeBlock_frameHead_badEnd {e : Byte} (he : e ≠ endMarker) (exp : Byte) :
    decodeBlock (frameHead cmd dh dl ack ++ [e]) exp .nock = .fail .badEnd := by
  simp [decodeBlock, shapeFailure, frameHead, frameLen, blockByte, he]

/-- The first eight bytes of the `STD` frame end in the high byte of a checksum, which is no end-marker (R67). -/
theorem decodeBlock_take_eight_encodeFrame_std (exp : Byte) :
    decodeBlock ((encodeFrame cmd dh dl ack .std).take 8) exp .nock = .fail .badEnd :=
  decodeBlock_frameHead_badEnd cmd dh dl ack (hi8_checksumStd_ne_endMarker cmd dh dl ack) exp

end Frame

/-- Settles O12: the frame is the one `ENC.STD` hands back, and `ALT` builds the same. -/
theorem stdAndAltSameFrame : Obligations.StdAndAltSameFrame := by
  intro cmd dh dl ack s
  refine ⟨encodeFrame cmd dh dl ack .std, length_encodeFrame .., exec_encInstr .std cmd dh dl ack s, ?_⟩
  rw [← encodeFrame_eq_std cmd dh dl ack (v := .alt) (by decide)]
  exact exec_encInstr .alt cmd dh dl ack s

/-- Settles O14: the range of `S` bounds the checksum, and the code alone moves its low byte through all values. -/
theorem checksumRange : Obligations.ChecksumRange := by
  constructor
  · intro cmd dh dl ack v hv
    dsimp only
    rw [encodeFrame_eq_std cmd dh dl ack hv, be16_encodeFrame_std]
    obtain ⟨lower, upper⟩ := checksumStd_bounds cmd dh dl ack
    exact ⟨lower, upper, hi8_checksumStd_cases cmd dh dl ack, decodeBlock_take_eight_encodeFrame_std cmd dh dl ack⟩
  · intro b v hv
    refine ⟨251#8 - b, 0#8, 0#8, 0#1, ?_⟩
    rw [encodeFrame_eq_std _ _ _ _ hv]
    exact lo8_checksumStd_surjective b

/-- Settles O15: positions 1 to 6 add up to `S`, and the checksum is `65536 - S`. -/
theorem checksumCompletesSum : Obligations.ChecksumCompletesSum := by
  intro cmd dh dl ack v hv
  have hck := toNat_checksumStd cmd dh dl ack
  have hsum := sum_encodeFrame cmd dh dl ack .std
  dsimp only at hsum ⊢
  rw [encodeFrame_eq_std cmd dh dl ack hv, be16_encodeFrame_std]
  omega

end Sys2Proof.Machine
end

section
/-! PROOFS. The deframer of 41_deframer.md: its checks as one chain with the outcome each one names (R79), the positions it
reads (R78), and the frame `encode` builds, which passes every check (R80). -/

namespace Sys2Proof.Machine

/-! ### The order of the checks -/

/-- The six checks and the payload as one chain, in the order of R71 to R77. -/
theorem decodeBlock_eq_chain (R : Bytes) (exp : Byte) (v : Variant) :
    decodeBlock R exp v =
      if R.length ≠ frameLen v then .fail .incomplete
      else if blockByte R 0 ≠ startMarker then .fail .badStart
      else if blockByte R 1 ≠ protocolVersion then .fail .badVersion
      else if blockByte R 2 ≠ payloadLength then .fail .badLength
      else if blockByte R (frameLen v - 1) ≠ endMarker then .fail .badEnd
      else if blockByte R 3 ≠ exp then .fail .mismatch
      else .ok (be16 (blockByte R 5) (blockByte R 6)) := by
  unfold decodeBlock shapeFailure
  split_ifs <;> rfl

theorem frameLen_eq_ite (v : Variant) : frameLen v = if v = .nock then 8 else 10 := by cases v <;> rfl

theorem be16_eq_iff (h l : Byte) (w : Half) : be16 h l = w ↔ w.toNat = 256 * h.toNat + l.toNat := by
  rw [← toNat_be16, ← BitVec.toNat_inj, eq_comm]

/-- Settles O16: along the chain, the first check that fails fixes the outcome, and with it the truth of every clause. -/
theorem decodeNamesEarliestFailure : Obligations.DecodeNamesEarliestFailure := by
  intro R exp v
  dsimp only
  rw [decodeBlock_eq_chain, ← frameLen_eq_ite, startMarker, protocolVersion, payloadLength, endMarker]
  by_cases hlen : R.length = frameLen v
  case neg => simp [hlen]
  by_cases hstart : blockByte R 0 = 0x7E#8
  case neg => simp [hlen, hstart]
  by_cases hver : blockByte R 1 = 0xFF#8
  case neg => simp [hlen, hstart, hver]
  by_cases hpay : blockByte R 2 = 0x06#8
  case neg => simp [hlen, hstart, hver, hpay]
  by_cases hend : blockByte R (frameLen v - 1) = 0xEF#8
  case neg => simp [hlen, hstart, hver, hpay, hend]
  by_cases hcmd : blockByte R 3 = exp
  case neg => simp [hlen, hstart, hver, hpay, hend, hcmd]
  simp [hlen, hstart, hver, hpay, hend, hcmd, be16_eq_iff]

/-! ### The positions that are read -/

/-- The positions the checks and the payload read (R72 to R77); R78 names the ones left out. -/
def decodePositions (v : Variant) : List Nat := [0, 1, 2, 3, 5, 6, frameLen v - 1]

/-- `decode` depends on a block through its length and the bytes at `decodePositions` alone. -/
theorem decodeBlock_congr {R R' : Bytes} {v : Variant} (exp : Byte) (hlen : R.length = R'.length)
    (hbyte : ∀ j ∈ decodePositions v, blockByte R j = blockByte R' j) :
    decodeBlock R exp v = decodeBlock R' exp v := by
  simp only [decodePositions, List.forall_mem_cons] at hbyte
  obtain ⟨h0, h1, h2, h3, h5, h6, hlast, -⟩ := hbyte
  simp only [decodeBlock_eq_chain, hlen, h0, h1, h2, h3, h5, h6, hlast]

theorem blockByte_set_ne (R : Bytes) (b : Byte) {i j : Nat} (hij : i ≠ j) :
    blockByte (R.set i b) j = blockByte R j := by
  simp [blockByte, List.getD, hij]

theorem four_notMem_decodePositions (v : Variant) : 4 ∉ decodePositions v := by cases v <;> decide

theorem checksum_notMem_decodePositions {v : Variant} (hv : v ≠ .nock) :
    7 ∉ decodePositions v ∧ 8 ∉ decodePositions v := by
  cases v with
  | std => decide
  | alt => decide
  | nock => exact absurd rfl hv

/-- Settles O17: a write at a position that is not read keeps the length and every byte read. -/
theorem decodeIgnoresAckAndChecksum : Obligations.DecodeIgnoresAckAndChecksum := by
  intro R exp v b i hi
  have hunread : i ∉ decodePositions v := by
    rcases hi with rfl | ⟨hv, rfl | rfl⟩
    · exact four_notMem_decodePositions v
    · exact (checksum_notMem_decodePositions hv).1
    · exact (checksum_notMem_decodePositions hv).2
  exact decodeBlock_congr exp (List.length_set ..) fun j hj =>
    blockByte_set_ne R b fun hij => hunread (hij ▸ hj)

/-! ### The frame that `encode` builds -/

section Frame

variable (cmd dh dl : Byte) (ack : BitVec 1) (v : Variant)

/-- Every variant's frame ends in the end-marker (40_framer.md R61 to R63). -/
theorem blockByte_encodeFrame_last : blockByte (encodeFrame cmd dh dl ack v) (frameLen v - 1) = endMarker := by
  cases v <;> rfl

/-- A built frame passes checks 1 to 5, whatever its checksum. -/
theorem shapeFailure_encodeFrame : shapeFailure (encodeFrame cmd dh dl ack v) v = none := by
  have hstart : blockByte (encodeFrame cmd dh dl ack v) 0 = startMarker := rfl
  have hver : blockByte (encodeFrame cmd dh dl ack v) 1 = protocolVersion := rfl
  have hpay : blockByte (encodeFrame cmd dh dl ack v) 2 = payloadLength := rfl
  simp [shapeFailure, length_encodeFrame, hstart, hver, hpay, blockByte_encodeFrame_last]

end Frame

/-- Settles O18: the checks pass, position 3 is the command, and positions 5 and 6 are the two data bytes. -/
theorem decodeOfBuiltFrame : Obligations.DecodeOfBuiltFrame := by
  intro cmd dh dl ack v
  have hdata : be16 (blockByte (encodeFrame cmd dh dl ack v) 5) (blockByte (encodeFrame cmd dh dl ack v) 6) =
      be16 dh dl := rfl
  simp [decodeBlock, shapeFailure_encodeFrame, hdata]

end Sys2Proof.Machine
end

section
/-! PROOFS. SEND and QUERY of 42_operations.md: a block written at position 0 leaves the rest of the buffer as it was, and
the state each of the two operations leaves is one record (R85 to R88). -/

namespace Sys2Proof.Machine

/-- A block written at position 0 stands there, and no later position changes (10_state.md R13, R14). -/
theorem wrote_writeBlock (m : Memory) (R : Bytes) : Wrote m (Memory.writeBlock m 0 R) R := by
  constructor
  · intro i hi
    rw [Memory.read_writeBlock, if_pos (by omega), Nat.sub_zero]
  · intro i hi
    rw [Memory.read_writeBlock, if_neg (by omega)]

theorem txLenOf_eq_ite (v : Variant) : txLenOf v = if v = .nock then .eight else .ten := by cases v <;> rfl

/-- The whole of a SEND (R85), as one record. -/
theorem sendOp_eq (cmd dh dl : Byte) (s : State) :
    sendOp cmd dh dl s =
      { s with
        txb := Memory.writeBlock s.txb 0 (buildFrame cmd dh dl s)
        txlen := txLenOf s.variant
        out := s.out ++ buildFrame cmd dh dl s
        answer := .silent } := rfl

/-- `RXCNT` counts the bytes of the block: at most the frame length, and at most what was drawn (R86). -/
theorem val_ofNat_length_take (A : Bytes) (v : Variant) :
    (Fin.ofNat 11 (A.take (frameLen v)).length).val = min (frameLen v) A.length := by
  have hle : (A.take (frameLen v)).length ≤ 10 := (List.length_take_le ..).trans (frameLen_le v)
  rw [val_ofNat_length _ hle, List.length_take]

/-- Settles O23: the buffer is `TXB` with the frame written at position 0, and SEND leaves the record of `sendOp_eq`. -/
theorem sendWritesFrameAndNothingElse : Obligations.SendWritesFrameAndNothingElse := by
  intro cmd dh dl s
  refine ⟨Memory.writeBlock s.txb 0 (buildFrame cmd dh dl s), wrote_writeBlock .., ?_⟩
  rw [← txLenOf_eq_ite]
  exact congrArg Host.Outcome.next (sendOp_eq cmd dh dl s)

/-- Settles O24: each buffer has its block written at position 0, and QUERY leaves the record of `queryNext_eq`, in which
the draw is taken and decoded for the command sent. -/
theorem querySendsReadsDecodes : Obligations.QuerySendsReadsDecodes := by
  intro cmd dh dl s
  refine ⟨Memory.writeBlock s.txb 0 (buildFrame cmd dh dl s),
    Memory.writeBlock s.rxb 0 ((nextDraw s).take (frameLen s.variant)),
    Fin.ofNat 11 ((nextDraw s).take (frameLen s.variant)).length, ?_⟩
  rw [← frameLen_eq_ite, ← txLenOf_eq_ite]
  exact ⟨wrote_writeBlock .., wrote_writeBlock .., val_ofNat_length_take ..,
    congrArg Host.Outcome.next (queryNext_eq cmd dh dl s)⟩

end Sys2Proof.Machine
end

section
/-! PROOFS. The status inspector and the configuration operations of 43_status_config.md: the inspector's word from the two
buffered bytes it reads (R95), the view that shows it at an idle time, and the one register each of SETVAR, SETACK and
SETTMO writes (R96 to R98). -/

namespace Sys2Proof.Machine

/-! ### The status inspector -/

/-- The status word of the code `c` beside byte 6 `d` (R95), kind and detail written as one number. -/
theorem statusOf_eq_ite (c d : Byte) :
    statusOf c d =
      if c = 0x40#8 then 1#3 ++ d
      else if c = 0x41#8 then 0x200#11
      else if c = 0x3D#8 then 0x300#11
      else if c = 0x3F#8 then 0x400#11
      else 0x000#11 := by
  unfold statusOf classify
  split_ifs <;> rfl

/-- STATUS hands back the status word and writes no register (R95). -/
theorem exec_status (s : State) : exec .status s = .next { s with answer := .status (statusWord s) } := rfl

/-- `REQ` has no view (20_memory.md R35). -/
theorem viewContent_req (s : State) : viewContent 0x00#8 s = none :=
  (viewContent_eq_none ..).2 (by simp [ListedIndex])

theorem step_busRead {s : State} {rest : List Input} {index : Byte} (hi : s.inputs = .busRead index :: rest) :
    step s = busReadStep index { s with inputs := rest } := by
  simp [step, stepOnce, hi]

/-- At an idle time a read hands back the content of the view, and changes no register (20_memory.md R34, R35). -/
theorem busReadStep_idle {s : State} {index : Byte} {w : BitVec 32} (hb : s.busy = false)
    (hw : viewContent index s = some w) : busReadStep index s = .next (handBack (.view w) s) := by
  have hne : index ≠ 0x00#8 := by
    rintro rfl
    simp [viewContent_req] at hw
  simp [busReadStep, hne, hw, hb]

/-- Settles O27: STATUS and the view both show `statusWord`, which is `statusOf` of `RXB[3]` and `RXB[6]`. -/
theorem statusReadsBufferedBytes : Obligations.StatusReadsBufferedBytes := by
  intro s
  dsimp only
  rw [← statusOf_eq_ite]
  exact ⟨exec_status s, fun rest hb hi => (step_busRead hi).trans (busReadStep_idle hb rfl)⟩

/-! ### The configuration operations -/

/-- SETVAR with the code of a variant writes that variant and no other register (R96). -/
theorem exec_setvar_variantCode (x : Variant) (s : State) :
    exec (.setvar (variantCode x)) s = .next { s with variant := x, answer := .silent } := by
  simp only [exec, execSetvar, variantOfCode_code, handBack]

/-- Settles O28: 0, 1 and 2 are the codes of the three variants. -/
theorem setvarWritesVariant : Obligations.SetvarWritesVariant := fun s =>
  ⟨exec_setvar_variantCode .std s, exec_setvar_variantCode .alt s, exec_setvar_variantCode .nock s⟩

/-- Settles O30: the record written out is the definition of SETACK. -/
theorem setackWritesAckEn : Obligations.SetackWritesAckEn := fun _ _ => rfl

/-- Settles O31: the record written out is the definition of SETTMO. -/
theorem settmoWritesTimeout : Obligations.SettmoWritesTimeout := fun _ _ => rfl

end Sys2Proof.Machine
end

section
/-! PROOFS. The wrappers of 44_wrapper_pseudo_ops.md: `clamp` below, within and above its range (R100), that a wrapper
call depends on its argument through the clamped value alone (R101), and `setVolume` as one SEND (R103). -/

namespace Sys2Proof.Machine

/-! ### `clamp` -/

theorem clamp_of_le {x lo hi : Int} (h : lo ≤ hi) (hx : x ≤ lo) : clamp x lo hi = lo := by
  unfold clamp
  split_ifs <;> omega

theorem clamp_of_ge {x lo hi : Int} (h : lo ≤ hi) (hx : hi ≤ x) : clamp x lo hi = hi := by
  unfold clamp
  split_ifs <;> omega

theorem clamp_of_mem {x lo hi : Int} (hlo : lo ≤ x) (hhi : x ≤ hi) : clamp x lo hi = x := by
  rw [clamp, if_neg (by omega), if_neg (by omega)]

/-! ### Wrapper calls -/

/-- A wrapper sees its argument only after clamping (R101). -/
theorem wrapperCall_congr {w : Wrapper} {x y : Int} (h : clamp x w.lo w.hi = clamp y w.lo w.hi) (s : State) :
    wrapperCall w x s = wrapperCall w y s := by
  simp only [wrapperCall, wrapperData, h]

theorem wrapperCall_of_le_lo {w : Wrapper} {x : Int} (hw : w.lo ≤ w.hi) (hx : x ≤ w.lo) (s : State) :
    wrapperCall w x s = wrapperCall w w.lo s :=
  wrapperCall_congr ((clamp_of_le hw hx).trans (clamp_of_le hw le_rfl).symm) s

theorem wrapperCall_of_hi_le {w : Wrapper} {x : Int} (hw : w.lo ≤ w.hi) (hx : w.hi ≤ x) (s : State) :
    wrapperCall w x s = wrapperCall w w.hi s :=
  wrapperCall_congr ((clamp_of_ge hw hx).trans (clamp_of_ge hw le_rfl).symm) s

theorem wrapperData_of_mem {w : Wrapper} {x : Int} (hlo : w.lo ≤ x) (hhi : x ≤ w.hi) :
    wrapperData w x = (w.dh x, w.dl x) := by
  rw [wrapperData, clamp_of_mem hlo hhi]

/-- Settles O36: an argument beyond a bound and the bound clamp to the same value, and one in the range to itself. -/
theorem wrappersSaturate : Obligations.WrappersSaturate := fun _ _ s hw =>
  ⟨fun hx => wrapperCall_of_le_lo hw hx s, fun hx => wrapperCall_of_hi_le hw hx s, wrapperData_of_mem⟩

/-- The instruction is the wrapper call (R103). -/
theorem exec_cmdSetvolume (x : Int) (s : State) :
    exec (.cmdSetvolume x) s = .next (wrapperCall setVolumeWrapper x s) := rfl

/-- Settles O37: 0 and 10000 lie beyond the track range 1 to 9999, and 31 beyond the volume range 0 to 30 (R102). -/
theorem clampingProperties : Obligations.ClampingProperties := by
  intro code dh dl s
  have track : (playTrackWrapper code dh dl).lo ≤ (playTrackWrapper code dh dl).hi :=
    show (1 : Int) ≤ 9999 by decide
  have volume : setVolumeWrapper.lo ≤ setVolumeWrapper.hi := by decide
  refine ⟨wrapperCall_of_le_lo track (show (0 : Int) ≤ 1 by decide) s,
    wrapperCall_of_hi_le track (show (9999 : Int) ≤ 10000 by decide) s, ?_⟩
  rw [exec_cmdSetvolume, exec_cmdSetvolume]
  exact congrArg Host.Outcome.next (wrapperCall_of_hi_le volume (show (30 : Int) ≤ 31 by decide) s)

/-! ### `setVolume` -/

/-- The low byte of the 16-bit form of a natural number is its value modulo 256. -/
theorem lo8_trunc16_of_nonneg {v : Int} (h : 0 ≤ v) : lo8 (trunc16 v) = BitVec.ofNat 8 v.toNat := by
  apply BitVec.eq_of_toNat_eq
  rw [toNat_lo8, trunc16, BitVec.toNat_ofInt, BitVec.toNat_ofNat]
  omega

/-- `setVolume(x)` is `SEND 0x06, 0x00, v` with `v` the clamped volume (R103). -/
theorem exec_cmdSetvolume_eq_send (x : Int) (s : State) :
    exec (.cmdSetvolume x) s = exec (.send 0x06#8 0x00#8 (BitVec.ofNat 8 (clamp x 0 30).toNat)) s := by
  obtain ⟨nonneg, -⟩ := clamp_bounds x 0 30 (by decide)
  rw [exec_cmdSetvolume, wrapperCall_setVolume, lo8_trunc16_of_nonneg nonneg]
  rfl

/-- Settles O34: the call is a SEND, and what a SEND leaves is `sendWritesFrameAndNothingElse`. -/
theorem setVolumeSendsClampedVolume : Obligations.SetVolumeSendsClampedVolume := by
  intro x s
  rw [exec_cmdSetvolume_eq_send]
  exact sendWritesFrameAndNothingElse 0x06#8 0x00#8 (BitVec.ofNat 8 (clamp x 0 30).toNat) s

end Sys2Proof.Machine
end

section
/-! PROOFS. The failure table of 60_exceptions.md: a QUERY leaves the block it read in `RXB` and `RXCNT` and the command
it expected in `TXB[3]`, so `RESULT` and `FAIL` are the outcome of `decode` on registers the host can read (R110 to R112). -/

namespace Sys2Proof.Machine

/-! ### The record of an outcome -/

@[simp] theorem failOf_eq_some_iff (d : Decoded) (r : Failure) : failOf d = some r ↔ d = .fail r := by
  cases d <;> simp [failOf]

@[simp] theorem failOf_eq_none_iff (d : Decoded) : failOf d = none ↔ ∃ p, d = .ok p := by
  cases d <;> simp [failOf]

/-- Every failure records the sentinel (42_operations.md R87). -/
theorem resultOf_of_failOf_ne_none {d : Decoded} (h : failOf d ≠ none) : resultOf d = 0x0000#16 := by
  cases d with
  | ok p => exact absurd rfl h
  | fail r => rfl

/-! ### The block in the registers -/

/-- The block of the last bounded read, `RXB[0..RXCNT-1]` (10_state.md R14, R16). -/
def receivedBlock (s : State) : Bytes := Memory.block s.rxb s.rxcnt.val

theorem length_receivedBlock (s : State) : (receivedBlock s).length = s.rxcnt.val := Memory.length_block ..

theorem blockByte_receivedBlock {s : State} {i : Nat} (h : i < s.rxcnt.val) :
    blockByte (receivedBlock s) i = Memory.read s.rxb i := Memory.blockByte_block _ _ _ h

section QueryNext

variable (cmd dh dl : Byte) (s : State)

theorem queryNext_variant : (queryNext cmd dh dl s).variant = s.variant := by rw [queryNext_eq]

theorem queryNext_txb_three : Memory.read (queryNext cmd dh dl s).txb 3 = cmd := by
  rw [queryNext_eq]
  exact expected_transmit cmd dh dl s

theorem queryNext_rxcnt_le : (queryNext cmd dh dl s).rxcnt.val ≤ frameLen s.variant := by
  rw [queryNext_eq, val_ofNat_length_take]
  exact Nat.min_le_left ..

theorem receivedBlock_queryNext :
    receivedBlock (queryNext cmd dh dl s) = (nextDraw s).take (frameLen s.variant) := by
  rw [receivedBlock, queryNext_eq, val_ofNat_length _ ((List.length_take_le ..).trans (frameLen_le _)),
    Memory.block_writeBlock]

/-- What `decode` says of the registers a QUERY leaves is what it said of the block read, for the command sent. -/
theorem judge_receivedBlock_queryNext :
    judge (receivedBlock (queryNext cmd dh dl s)) (queryNext cmd dh dl s) =
      decodeBlock ((nextDraw s).take (frameLen s.variant)) cmd s.variant := by
  rw [judge, receivedBlock_queryNext, queryNext_txb_three, queryNext_variant]

/-- A QUERY records the outcome of `decode` on the registers it leaves (R112). -/
theorem queryNext_fail :
    (queryNext cmd dh dl s).fail = failOf (judge (receivedBlock (queryNext cmd dh dl s)) (queryNext cmd dh dl s)) := by
  rw [judge_receivedBlock_queryNext, queryNext_eq]

theorem queryNext_result :
    (queryNext cmd dh dl s).result =
      resultOf (judge (receivedBlock (queryNext cmd dh dl s)) (queryNext cmd dh dl s)) := by
  rw [judge_receivedBlock_queryNext, queryNext_eq]

end QueryNext

/-! ### The reasons told from the registers -/

/-- The instruction is `queryNext`, which completes in every state (R112). -/
theorem exec_query (cmd dh dl : Byte) (s : State) :
    exec (.query cmd dh dl) s = .next (queryNext cmd dh dl s) := rfl

/-- Settles O25: a short block is `Incomplete` and nothing later; of a whole one the bytes that `decode` judges are
those of `RXB`, and the clauses are those of `decodeNamesEarliestFailure`. -/
theorem queryReasonsFromRegisters : Obligations.QueryReasonsFromRegisters := by
  intro cmd dh dl s t h
  rw [exec_query] at h
  injection h with h
  have hvar : t.variant = s.variant := h ▸ queryNext_variant cmd dh dl s
  have hle : t.rxcnt.val ≤ frameLen t.variant := hvar ▸ h ▸ queryNext_rxcnt_le cmd dh dl s
  have hfail : t.fail = failOf (judge (receivedBlock t) t) := h ▸ queryNext_fail cmd dh dl s
  have hresult : t.result = resultOf (judge (receivedBlock t) t) := h ▸ queryNext_result cmd dh dl s
  have table := decodeNamesEarliestFailure (receivedBlock t) (Memory.read t.txb 3) t.variant
  dsimp only at table ⊢
  rw [← frameLen_eq_ite, length_receivedBlock, ← judge] at table
  rw [← hvar, ← frameLen_eq_ite, hfail, hresult]
  rcases hle.lt_or_eq with hshort | hfull
  · have hinc : judge (receivedBlock t) t = .fail .incomplete := table.1.2 hshort.ne
    simp [hinc, hshort, hshort.ne, resultOf]
  · have hlen : 8 ≤ frameLen t.variant := by cases t.variant <;> decide
    have hbyte : ∀ i < frameLen t.variant, blockByte (receivedBlock t) i = Memory.read t.rxb i :=
      fun i hi => blockByte_receivedBlock (hfull ▸ hi)
    simp (disch := omega) only [hbyte] at table
    obtain ⟨hinc, hstart, hver, hpay, hend, hcmd, hok⟩ := table
    simp only [failOf_eq_some_iff]
    refine ⟨hinc.trans (by omega), hstart, hver, hpay, hend, hcmd, ?_, ?_, resultOf_of_failOf_ne_none⟩
    · rw [failOf_eq_none_iff]
      constructor
      · rintro ⟨p, hp⟩
        obtain ⟨hshape, hcommand, -⟩ := (hok p).1 hp
        exact ⟨hshape, hcommand⟩
      · rintro ⟨hshape, hcommand⟩
        exact ⟨_, (hok _).2 ⟨hshape, hcommand, toNat_be16 ..⟩⟩
    · intro hnone
      obtain ⟨p, hp⟩ := (failOf_eq_none_iff _).1 hnone
      obtain ⟨-, -, hpayload⟩ := (hok p).1 hp
      rw [hp]
      exact hpayload

end Sys2Proof.Machine
end

section
/-! PROOFS. The reset input (70_reset_and_hazards.md R125): what the event leaves, whatever the machine was doing. -/

namespace Sys2Proof.Machine

/-- The reset event as one record: of the state before it, the streams and the agents outside alone remain (R125). -/
theorem resetEvent_eq (s : State) :
    resetEvent s =
      { variant := .std
        ackEn := 0#1
        timeout := Config.timeoutResetMs
        txb := []
        txlen := .zero
        rxb := []
        rxcnt := 0
        result := 0x0000#16
        fail := none
        busy := false
        phase := .idle
        idx := 0
        tmr := 0#16
        out := s.out
        pending := s.pending
        cur := none
        inputs := s.inputs
        line := s.line
        answer := s.answer
        draws := s.draws } := rfl

/-- The reset input is taken at any moment: it does not wait for `BUSY = 0` (R125). -/
theorem step_resetInput {s : State} {rest : List Input} (hi : s.inputs = .reset :: rest) :
    step s = .next (resetEvent { s with inputs := rest }) := by
  simp [step, stepOnce, hi]

/-- Settles O44: the step is the reset event in every state, the fields are those of `resetEvent_eq`, and an empty
buffer reads 0x00 at every position. -/
theorem resetInputKeepsStreams : Obligations.ResetInputKeepsStreams := by
  intro s rest hi
  refine ⟨_, step_resetInput hi, ?_⟩
  simp only [resetEvent_eq, Memory.read_nil, implies_true, and_self]

end Sys2Proof.Machine
end

section
/-! PROOFS. The encoding of 30_encoding.md: the rows of the request word read by their masks (R53, R54), and that in every
form the decoder and the encoder undo one another (R45, R46, R50, R57). -/

namespace Sys2Proof.Machine

/-! ### The request word: its rows are what is accepted, what is encoded, and what the masks match -/

theorem RequestRow.decodeReq_eq {w : ReqWord} {i : Instr} (h : RequestRow w i) : decodeReq w = .ok i := by
  cases h with
  | send op zero => simp [decodeReq, op, zero]
  | query op zero => simp [decodeReq, op, zero]
  | status op zero => simp [decodeReq, op, zero]
  | setvar op zero legal => simp [decodeReq, op, zero, legal]
  | setack op zero => simp [decodeReq, op, zero]
  | settmo op zero => simp [decodeReq, op, zero]

/-- A field read from a word of four bytes, the highest first. -/
theorem extractLsb'_fourBytes (a b c d : Byte) :
    reqCmd (a ++ b ++ c ++ d) = b ∧ reqDh (a ++ b ++ c ++ d) = c ∧ reqDl (a ++ b ++ c ++ d) = d ∧
    reqOp (a ++ b ++ c ++ d) = a.extractLsb' 4 4 ∧ (a ++ b ++ c ++ d).extractLsb' 24 4 = a.extractLsb' 0 4 := by
  have below : ∀ {m n start len : Nat} {x : BitVec m} {y : BitVec n}, n ≤ start →
      (x ++ y).extractLsb' start len = x.extractLsb' (start - n) len := BitVec.extractLsb'_append_eq_of_le
  exact ⟨(below (by decide)).trans ((below (by decide)).trans BitVec.extractLsb'_append_eq_right),
    (below (by decide)).trans BitVec.extractLsb'_append_eq_right, BitVec.extractLsb'_append_eq_right,
    (below (by decide)).trans ((below (by decide)).trans (below (by decide))),
    (below (by decide)).trans ((below (by decide)).trans (below (by decide)))⟩

/-- The word `encode` builds for a request is a word of the request's row. -/
theorem requestRow_of_encode {i : Instr} {w : ReqWord} (hi : i.wellFormed = true) (h : encode i = .req32 w) :
    RequestRow w i := by
  cases i with
  | send cmd dh dl =>
    cases h
    obtain ⟨hcmd, hdh, hdl, hop, hzero⟩ := extractLsb'_fourBytes 0x10#8 cmd dh dl
    simpa only [hcmd, hdh, hdl] using RequestRow.send hop hzero
  | query cmd dh dl =>
    cases h
    obtain ⟨hcmd, hdh, hdl, hop, hzero⟩ := extractLsb'_fourBytes 0x20#8 cmd dh dl
    simpa only [hcmd, hdh, hdl] using RequestRow.query hop hzero
  | status =>
    cases h
    exact .status rfl rfl
  | setvar v =>
    cases h
    have hv : reqV (0x10000000#30 ++ v) = v := BitVec.extractLsb'_append_eq_right
    have row := RequestRow.setvar (w := 0x10000000#30 ++ v) (BitVec.extractLsb'_append_eq_of_le (by decide))
      (BitVec.extractLsb'_append_eq_of_le (by decide)) (by rw [hv]; exact bne_iff_ne.mp hi)
    rwa [hv] at row
  | setack a =>
    cases h
    have ha : reqA (0x28000000#31 ++ a) = a := BitVec.extractLsb'_append_eq_right
    have row := RequestRow.setack (w := 0x28000000#31 ++ a) (BitVec.extractLsb'_append_eq_of_le (by decide))
      (BitVec.extractLsb'_append_eq_of_le (by decide))
    rwa [ha] at row
  | settmo t =>
    cases h
    have ht : reqT (0x6000#16 ++ t) = t := BitVec.extractLsb'_append_eq_right
    have row := RequestRow.settmo (w := 0x6000#16 ++ t) (BitVec.extractLsb'_append_eq_of_le (by decide))
      (BitVec.extractLsb'_append_eq_of_le (by decide))
    rwa [ht] at row
  | _ => cases h

/-- The bits from `start` up of a request word: `op`, and below it the bits shown as 0 (R53). -/
theorem extractLsb'_above {w : ReqWord} {start len : Nat} (h : start + len = 28) :
    w.extractLsb' start (4 + len) = reqOp w ++ w.extractLsb' start len :=
  (BitVec.extractLsb'_append_extractLsb'_eq_extractLsb' h.symm).symm

/-- A word is its bits from `k` up and its `k` bits below. -/
theorem append_extractLsb'_zero {n k : Nat} (w : BitVec (n + k)) : w.extractLsb' k n ++ w.extractLsb' 0 k = w :=
  (BitVec.extractLsb'_append_extractLsb'_eq_extractLsb' (Nat.zero_add k).symm).trans BitVec.extractLsb'_eq_self

/-- A request word is its four bytes, the highest first. -/
theorem append_bytes (w : ReqWord) : w.extractLsb' 24 8 ++ reqCmd w ++ reqDh w ++ reqDl w = w := by
  have upper : w.extractLsb' 24 8 ++ reqCmd w ++ reqDh w = w.extractLsb' 8 24 := by
    rw [reqCmd, BitVec.extractLsb'_append_extractLsb'_eq_extractLsb' (start₁ := 16) (len₁ := 8) rfl]
    exact BitVec.extractLsb'_append_extractLsb'_eq_extractLsb' rfl
  rw [upper]
  exact append_extractLsb'_zero (n := 24) (k := 8) w

/-- A request word of a row is the word `encode` builds for the row's instruction: its high part is `op` over zeros. -/
theorem RequestRow.encode_eq {w : ReqWord} {i : Instr} (h : RequestRow w i) : encode i = .req32 w := by
  cases h with
  | send op zero =>
    have high : w.extractLsb' 24 8 = 0x10#8 := by rw [extractLsb'_above (len := 4) rfl, op, zero]; rfl
    rw [encode, ← high, append_bytes]
  | query op zero =>
    have high : w.extractLsb' 24 8 = 0x20#8 := by rw [extractLsb'_above (len := 4) rfl, op, zero]; rfl
    rw [encode, ← high, append_bytes]
  | status op zero =>
    have whole : w.extractLsb' 0 32 = 0x30000000#32 := by rw [extractLsb'_above (len := 28) rfl, op, zero]; rfl
    rw [encode, ← whole, BitVec.extractLsb'_eq_self]
  | setvar op zero legal =>
    have high : w.extractLsb' 2 30 = 0x10000000#30 := by rw [extractLsb'_above (len := 26) rfl, op, zero]; rfl
    rw [encode, ← high]
    exact congrArg Encoded.req32 (append_extractLsb'_zero (n := 30) (k := 2) w)
  | setack op zero =>
    have high : w.extractLsb' 1 31 = 0x28000000#31 := by rw [extractLsb'_above (len := 27) rfl, op, zero]; rfl
    rw [encode, ← high]
    exact congrArg Encoded.req32 (append_extractLsb'_zero (n := 31) (k := 1) w)
  | settmo op zero =>
    have high : w.extractLsb' 16 16 = 0x6000#16 := by rw [extractLsb'_above (len := 12) rfl, op, zero]; rfl
    rw [encode, ← high]
    exact congrArg Encoded.req32 (append_extractLsb'_zero (n := 16) (k := 16) w)

/-- A word that matches a mask has, in every field the mask covers, the bits of the match (30_encoding.md R57). -/
theorem extractLsb'_of_and_eq {n : Nat} {w mask fixed : BitVec n} (h : w &&& mask = fixed) {start len : Nat}
    (hm : mask.extractLsb' start len = BitVec.allOnes len) : w.extractLsb' start len = fixed.extractLsb' start len := by
  rw [← h, BitVec.extractLsb'_and, hm, BitVec.and_allOnes]

/-- A field that is not 0 has a bit under its mask. -/
theorem and_ne_zero {w mask : ReqWord} {start len : Nat} (hm : mask.extractLsb' start len = BitVec.allOnes len)
    (h : w.extractLsb' start len ≠ 0#len) : w &&& mask ≠ 0#32 := fun hz =>
  h ((extractLsb'_of_and_eq hz hm).trans BitVec.extractLsb'_zero)

/-- The reserved variant code 3 sets both of bits 1:0. -/
theorem and_three_of_reqV {w : ReqWord} (h : reqV w = 3#2) : w &&& 0x3#32 = 0x3#32 := by
  have low : w.toNat % 2 ^ 2 = 3 := by simpa [reqV] using congrArg BitVec.toNat h
  apply BitVec.eq_of_toNat_eq
  exact (Nat.and_two_pow_sub_one_eq_mod w.toNat 2).trans low

/-- What the request decoder rejects is reserved (R54): each of its rejections is one clause of the list. -/
theorem reserved_of_decodeReq_error {w : ReqWord} {r : Reject} (h : decodeReq w = .error r) : ReservedWord w := by
  unfold decodeReq at h
  split_ifs at h with send zero query zero status zero setvar zero three setack zero settmo zero <;> injection h
  · exact .inr (.inr (.inl ⟨.inl (toNat_div_of_reqOp send), and_ne_zero (by decide) zero⟩))
  · exact .inr (.inr (.inl ⟨.inr (toNat_div_of_reqOp query), and_ne_zero (by decide) zero⟩))
  · exact .inr (.inr (.inr (.inl ⟨toNat_div_of_reqOp status, and_ne_zero (by decide) zero⟩)))
  · exact .inr (.inr (.inr (.inr (.inl ⟨toNat_div_of_reqOp setvar, .inr (and_three_of_reqV three)⟩))))
  · exact .inr (.inr (.inr (.inr (.inl ⟨toNat_div_of_reqOp setvar, .inl (and_ne_zero (by decide) zero)⟩))))
  · exact .inr (.inr (.inr (.inr (.inr (.inl ⟨toNat_div_of_reqOp setack, and_ne_zero (by decide) zero⟩)))))
  · exact .inr (.inr (.inr (.inr (.inr (.inr ⟨toNat_div_of_reqOp settmo, and_ne_zero (by decide) zero⟩)))))
  · have bound := (reqOp w).isLt
    have hop := toNat_reqOp w
    simp only [← BitVec.toNat_inj, BitVec.reduceToNat] at send query status setvar setack settmo
    unfold ReservedWord
    dsimp only
    omega

/-- Settles O3: a word that matches a mask is a word of that row, which the decoder reads; and what is of no row, it
rejects. -/
theorem requestWordTable : Obligations.RequestWordTable := by
  intro w
  refine ⟨fun h => ?_, fun h => ?_, fun h => ?_, fun h legal => ?_, fun h => ?_, fun h => ?_,
    decode_reserved, fun ⟨r, h⟩ => reserved_of_decodeReq_error h⟩
  · exact (RequestRow.send (extractLsb'_of_and_eq h (by decide)) (extractLsb'_of_and_eq h (by decide))).decodeReq_eq
  · exact (RequestRow.query (extractLsb'_of_and_eq h (by decide)) (extractLsb'_of_and_eq h (by decide))).decodeReq_eq
  · subst h
    rfl
  · exact (RequestRow.setvar (extractLsb'_of_and_eq h (by decide)) (extractLsb'_of_and_eq h (by decide))
      legal).decodeReq_eq
  · exact (RequestRow.setack (extractLsb'_of_and_eq h (by decide)) (extractLsb'_of_and_eq h (by decide))).decodeReq_eq
  · exact (RequestRow.settmo (extractLsb'_of_and_eq h (by decide)) (extractLsb'_of_and_eq h (by decide))).decodeReq_eq

/-! ### Outbound frames: the operands stand in the frame that is rebuilt of them -/

theorem setWidth_ackByte (a : BitVec 1) : (ackByte a).setWidth 1 = a := by revert a; decide

theorem decodeOut_encodeFrame (cmd dh dl : Byte) (ack : BitVec 1) (v : Variant) :
    decodeOut v (encodeFrame cmd dh dl ack v) = .ok (encInstr v cmd dh dl ack) := by
  have hcmd : blockByte (encodeFrame cmd dh dl ack v) 3 = cmd := rfl
  have hack : blockByte (encodeFrame cmd dh dl ack v) 4 = ackByte ack := rfl
  have hdh : blockByte (encodeFrame cmd dh dl ack v) 5 = dh := rfl
  have hdl : blockByte (encodeFrame cmd dh dl ack v) 6 = dl := rfl
  simp only [decodeOut, hcmd, hack, hdh, hdl, setWidth_ackByte, if_true]

theorem encode_encInstr (v : Variant) (cmd dh dl : Byte) (ack : BitVec 1) :
    encode (encInstr v cmd dh dl ack) = .outFrame v (encodeFrame cmd dh dl ack v) := by
  cases v <;> rfl

theorem encode_of_decodeOut {v : Variant} {F : Bytes} {i : Instr} (h : decodeOut v F = .ok i) :
    encode i = .outFrame v F := by
  simp only [decodeOut] at h
  split at h
  case isTrue built =>
    injection h with h
    rw [← h, encode_encInstr, ← built]
  case isFalse => cases h

/-! ### Inbound blocks: a block that passes the checks is its free bytes between the constants -/

theorem shapeFailure_eq_none_iff (R : Bytes) (v : Variant) :
    shapeFailure R v = none ↔ R.length = frameLen v ∧ blockByte R 0 = startMarker ∧ blockByte R 1 = protocolVersion ∧
      blockByte R 2 = payloadLength ∧ blockByte R (frameLen v - 1) = endMarker := by
  unfold shapeFailure
  split_ifs <;> simp_all

/-- A block of a known length is its bytes. -/
theorem eq_map_blockByte (R : Bytes) : R = (List.range R.length).map (blockByte R) := by
  apply List.ext_getElem
  · simp
  · intro i h1 h2
    simp [blockByte, List.getD, h1]

theorem eq_of_shapeFailure_nock {R : Bytes} (h : shapeFailure R .nock = none) :
    R = [startMarker, protocolVersion, payloadLength, blockByte R 3, blockByte R 4, blockByte R 5, blockByte R 6,
      endMarker] := by
  obtain ⟨hlen, hstart, hver, hpay, hend⟩ := (shapeFailure_eq_none_iff R .nock).1 h
  rw [← hstart, ← hver, ← hpay, ← hend]
  have bytes := eq_map_blockByte R
  rwa [hlen] at bytes

theorem eq_of_shapeFailure_std {R : Bytes} (h : shapeFailure R .std = none) :
    R = [startMarker, protocolVersion, payloadLength, blockByte R 3, blockByte R 4, blockByte R 5, blockByte R 6,
      blockByte R 7, blockByte R 8, endMarker] := by
  obtain ⟨hlen, hstart, hver, hpay, hend⟩ := (shapeFailure_eq_none_iff R .std).1 h
  rw [← hstart, ← hver, ← hpay, ← hend]
  have bytes := eq_map_blockByte R
  rwa [hlen] at bytes

theorem encode_of_decodeIn {R : Bytes} {i : Instr} (h : decodeIn R = .ok i) : encode i = .inFrame R := by
  unfold decodeIn at h
  split at h
  · split at h
    · cases h
    · rename_i shape
      injection h with h
      rw [← h]
      exact congrArg Encoded.inFrame (eq_of_shapeFailure_nock shape).symm
  · split at h
    · cases h
    · rename_i shape
      injection h with h
      rw [← h]
      exact congrArg Encoded.inFrame (eq_of_shapeFailure_std shape).symm

/-! ### Codes: the argument that stands beside the byte -/

theorem plainCode_eq_ok_iff (c : Byte) (arg : Int) (i j : Instr) : plainCode c arg i = .ok j ↔ arg = 0 ∧ i = j := by
  unfold plainCode
  split_ifs with h <;> simp [h]

theorem encode_of_plainCode {c : Byte} {arg : Int} {i j : Instr} (h : plainCode c arg i = .ok j)
    (hi : encode i = .code c 0) : encode j = .code c arg := by
  obtain ⟨rfl, rfl⟩ := (plainCode_eq_ok_iff c arg i j).1 h
  exact hi

/-- The 16-bit `{dh, dl}` of a legal argument is that argument (R51). -/
theorem toNat_be16_trunc16 {x : Int} (hlo : 0 ≤ x) (hhi : x < 65536) :
    ((be16 (hi8 (trunc16 x)) (lo8 (trunc16 x))).toNat : Int) = x := by
  rw [be16_hi8_lo8, trunc16, BitVec.toNat_ofInt]
  omega

theorem trunc16_toNat (w : Half) : trunc16 (w.toNat : Int) = w := by
  simp [trunc16]

theorem encode_of_decodeCode {c : Byte} {arg : Int} {i : Instr} (h : decodeCode c arg = .ok i) :
    encode i = .code c arg := by
  unfold decodeCode at h
  split_ifs at h with h40 h41 h3D h3F h06 h43 h0B legal
  · exact encode_of_plainCode h (by rw [h40]; rfl)
  · exact encode_of_plainCode h (by rw [h41]; rfl)
  · exact encode_of_plainCode h (by rw [h3D]; rfl)
  · exact encode_of_plainCode h (by rw [h3F]; rfl)
  · injection h with h
    rw [← h, h06, encode]
  · exact encode_of_plainCode h (by rw [h43]; rfl)
  · injection h with h
    rw [← h, h0B, encode, toNat_be16_trunc16 legal.1 legal.2]

theorem decodeCode_cmd0B (dh dl : Byte) : decodeCode 0x0B#8 ((be16 dh dl).toNat : Int) = .ok (.cmd0B dh dl) := by
  have legal : 0 ≤ ((be16 dh dl).toNat : Int) ∧ ((be16 dh dl).toNat : Int) < 65536 := by
    have bound := (be16 dh dl).isLt
    omega
  rw [decodeCode, if_pos legal, trunc16_toNat, hi8_be16, lo8_be16]
  rfl

/-! ### The two directions -/

/-- Settles O2: in each form of word, what is accepted is rebuilt by the encoder. -/
theorem encodeInvertsDecode : Obligations.EncodeInvertsDecode := by
  intro p i h
  refine ⟨decode_wellFormed h, ?_⟩
  cases p with
  | req32 w => exact (decodeReq_ok h).encode_eq
  | outFrame v F => exact encode_of_decodeOut h
  | inFrame R => exact encode_of_decodeIn h
  | code c arg => exact encode_of_decodeCode h

/-- Settles O1: each row's word, in the row's form, is read back; the request rows as words of their row. -/
theorem decodeInvertsEncode : Obligations.DecodeInvertsEncode := by
  intro i hi
  cases i with
  | send | query | status | setvar | setack | settmo => exact (requestRow_of_encode hi rfl).decodeReq_eq
  | encStd cmd dh dl ack => exact decodeOut_encodeFrame cmd dh dl ack .std
  | encAlt cmd dh dl ack => exact decodeOut_encodeFrame cmd dh dl ack .alt
  | encNock cmd dh dl ack => exact decodeOut_encodeFrame cmd dh dl ack .nock
  | rxF10 | rxF8 => rfl
  | stError | stAccepted | stPlaydone | stReady | cmdSetvolume | cmdQueryvolume => rfl
  | cmd0B dh dl => exact decodeCode_cmd0B dh dl

/-- Settles O5: each word written out is fixed, so the decoder computes on it. -/
theorem decodesSpecWords : Obligations.DecodesSpecWords :=
  ⟨rfl, rfl, rfl, rfl, rfl, rfl, rfl⟩

end Sys2Proof.Machine
end

section
/-! PROOFS. Blocks and codes judged outside a QUERY: `decode` of a block of the other format (R81), of the blocks of the RX
rows (R70) and of a malformed one that is presented (R79), and the status codes as rows (R95). -/

namespace Sys2Proof.Machine

/-! ### Frames and blocks of the two formats -/

/-- Settles O13: every variant has its own length, and the head of the frame is the same in all. -/
theorem frameHeadAndLength : Obligations.FrameHeadAndLength := fun cmd dh dl ack v =>
  ⟨(length_encodeFrame cmd dh dl ack v).trans (frameLen_eq_ite v), rfl⟩

/-- A block of another length than the variant's is `Incomplete` (41_deframer.md R71). -/
theorem decodeBlock_of_length_ne {R : Bytes} {v : Variant} (h : R.length ≠ frameLen v) (exp : Byte) :
    decodeBlock R exp v = .fail .incomplete := by
  rw [decodeBlock_eq_chain, if_pos h]

/-- A block that passes the checks 1 to 5 is judged by its command (R76, R77). -/
theorem decodeBlock_of_shape {R : Bytes} {v : Variant} (h : shapeFailure R v = none) (exp : Byte) :
    decodeBlock R exp v =
      if blockByte R 3 = exp then .ok (be16 (blockByte R 5) (blockByte R 6)) else .fail .mismatch := by
  simp only [decodeBlock, h, ne_eq, ite_not]

/-- Settles O19: the length check tells the formats apart, a ten-byte frame cut at eight has no end-marker, and `STD` and
`ALT` differ in no check. -/
theorem mixedVariants : Obligations.MixedVariants := by
  refine ⟨fun F exp hF => decodeBlock_of_length_ne (by rw [hF]; decide) exp,
    fun G exp hG =>
      ⟨decodeBlock_of_length_ne (by rw [hG]; decide) exp, decodeBlock_of_length_ne (by rw [hG]; decide) exp⟩,
    fun cmd dh dl exp ack => decodeBlock_take_eight_encodeFrame_std cmd dh dl ack exp, fun R exp => ?_⟩
  rw [decodeBlock_eq_chain, decodeBlock_eq_chain]
  rfl

/-! ### The RX rows -/

/-- Settles O20: the block of the row has ten bytes and passes the other checks, so length and command decide. -/
theorem rxF10Judged : Obligations.RxF10Judged := by
  intro cmd ack dh dl ckh ckl s d
  have judged : judge [startMarker, protocolVersion, payloadLength, cmd, ack, dh, dl, ckh, ckl, endMarker] s = d := by
    unfold judge d
    cases s.variant with
    | std => exact decodeBlock_of_shape rfl _
    | alt => exact decodeBlock_of_shape rfl _
    | nock => exact decodeBlock_of_length_ne (by simp [frameLen]) _
  rw [← judged]
  rfl

/-- Settles O21: the block of the row has eight bytes and passes the other checks, so length and command decide. -/
theorem rxF8Judged : Obligations.RxF8Judged := by
  intro cmd ack dh dl s d
  have judged : judge [startMarker, protocolVersion, payloadLength, cmd, ack, dh, dl, endMarker] s = d := by
    unfold judge d
    cases s.variant with
    | std => exact decodeBlock_of_length_ne (by simp [frameLen]) _
    | alt => exact decodeBlock_of_length_ne (by simp [frameLen]) _
    | nock => exact decodeBlock_of_shape rfl _
  rw [← judged]
  rfl

/-- Settles O22: both ways of presenting a block come to `rejected`, which judges it. -/
theorem malformedBlockJudged : Obligations.MalformedBlockJudged := by
  intro s R r rest hb hr hi
  rcases hi with hi | hi
  · rw [step_call hb hi, acceptCall_error hr]; rfl
  · rw [step_start hb hi, acceptStart_error hr]; rfl

/-! ### The status codes -/

/-- Settles O32: the kind of each code is fixed, and the detail of `Error` is `RXB[6]`. -/
theorem statusCodesAnswered : Obligations.StatusCodesAnswered := fun _ => ⟨rfl, rfl, rfl, rfl⟩

/-- STATUS inspects the byte buffered at `RXB[3]` (R95). -/
theorem exec_status_eq_inspectCode (s : State) :
    exec .status s = .next (inspectCode (Memory.read s.rxb 3) s) := rfl

/-- Settles O33: STATUS and the rows inspect a code, and here it is the same code. -/
theorem statusIsRowOfBufferedByte : Obligations.StatusIsRowOfBufferedByte := by
  intro s
  rw [exec_status_eq_inspectCode]
  refine ⟨fun h => ?_, fun h => ?_, fun h => ?_, fun h => ?_⟩ <;> rw [h] <;> rfl

end Sys2Proof.Machine
end

section
/-! PROOFS. Transfers beside SEND and QUERY themselves, and who writes what: the wrappers that are one SEND or one QUERY
(R103, R104, R139), the discard before a QUERY (R41), and the registers each instruction leaves alone. -/

namespace Sys2Proof.Machine

/-! ### The wrappers -/

/-- Settles O35: the volume range is 0 to 30, and a wrapper call saturates at its bounds. -/
theorem setVolumeSaturates : Obligations.SetVolumeSaturates := by
  intro x s
  have volume : setVolumeWrapper.lo ≤ setVolumeWrapper.hi := by decide
  simp only [exec_cmdSetvolume]
  exact ⟨fun hx => congrArg Host.Outcome.next (wrapperCall_of_hi_le volume hx s),
    fun hx => congrArg Host.Outcome.next (wrapperCall_of_le_lo volume hx s)⟩

/-- Settles O38: the instruction is that QUERY, whose record `queryNext_eq` gives. -/
theorem volumeQueryIsQuery : Obligations.VolumeQueryIsQuery := by
  intro s
  refine ⟨queryNext 0x43#8 0x00#8 0x00#8 s, rfl, rfl, ?_, ?_⟩
  · rw [queryNext_eq]; rfl
  · rw [queryNext_eq]

/-- Settles O39: the instruction is a SEND of the code 0x0B. -/
theorem code0BFramedLikeAnyOther : Obligations.Code0BFramedLikeAnyOther := fun dh dl s =>
  sendWritesFrameAndNothingElse 0x0B#8 dh dl s

/-- Settles O26: in the record a QUERY leaves the pending bytes are those of the draw, and none of the old ones. -/
theorem queryIgnoresOldPending : Obligations.QueryIgnoresOldPending := by
  intro cmd dh dl s A
  rw [exec_query, exec_query, queryNext_eq, queryNext_eq]
  rfl

/-! ### Who writes what -/

theorem eq_query_of_transferOf {i : Instr} {cmd dh dl : Byte} (h : transferOf i = some (.query, cmd, dh, dl)) :
    i = .query cmd dh dl ∨ i = .cmdQueryvolume := by
  cases i with
  | query => cases h; exact .inl rfl
  | cmdQueryvolume => exact .inr rfl
  | _ => cases h

/-- Settles O40: of the three kinds of instruction, QUERY apart, SEND writes the transmit side, and the others at most
control registers. -/
theorem onlyQueryWritesReceiveSide : Obligations.OnlyQueryWritesReceiveSide := by
  intro i s t h hquery hvolume
  obtain ⟨cmd, dh, dl, -, rfl⟩ | ⟨cmd, dh, dl, hi, -⟩ | ⟨-, v, a, x, w, rfl⟩ := exec_next h
  · exact ⟨rfl, rfl, rfl, rfl, rfl⟩
  · exact (eq_query_of_transferOf hi).elim (fun e => absurd e (hquery cmd dh dl)) (fun e => absurd e hvolume)
  · exact ⟨rfl, rfl, rfl, rfl, rfl⟩

/-- Settles O42: a QUERY writes neither the sequencing state nor the events (`queryNext_eq`), and no more do the others. -/
theorem onlyTransfersWriteTransmitSide : Obligations.OnlyTransfersWriteTransmitSide := by
  intro i s t h
  obtain ⟨cmd, dh, dl, hi, rfl⟩ | ⟨cmd, dh, dl, hi, rfl⟩ | ⟨-, v, a, x, w, rfl⟩ := exec_next h
  · exact ⟨rfl, rfl, rfl, rfl, rfl, rfl, fun none => by simp [hi] at none⟩
  · rw [queryNext_eq]
    exact ⟨rfl, rfl, rfl, rfl, rfl, rfl, fun none => by simp [hi] at none⟩
  · exact ⟨rfl, rfl, rfl, rfl, rfl, rfl, fun _ => ⟨rfl, rfl, rfl⟩⟩

/-- An instruction that performs no transfer is one of the three configuration operations, or hands back an answer and
writes no register. -/
theorem exec_next_of_no_transfer {i : Instr} {s t : State} (hi : transferOf i = none) (h : exec i s = .next t) :
    (∃ v x, i = .setvar v ∧ t = handBack .silent { s with variant := x }) ∨
    (∃ a, i = .setack a ∧ t = handBack .silent { s with ackEn := a }) ∨
    (∃ x, i = .settmo x ∧ t = handBack .silent { s with timeout := x }) ∨ ∃ w, t = handBack w s := by
  cases i with
  | send | query | cmdSetvolume | cmdQueryvolume | cmd0B => cases hi
  | setvar v =>
    obtain ⟨x, -, rfl⟩ := execSetvar_next h
    exact .inl ⟨v, x, rfl, rfl⟩
  | setack a => cases h; exact .inr (.inl ⟨a, rfl, rfl⟩)
  | settmo x => cases h; exact .inr (.inr (.inl ⟨x, rfl, rfl⟩))
  | status | encStd | encAlt | encNock | rxF10 | rxF8 | stError | stAccepted | stPlaydone | stReady =>
    cases h; exact .inr (.inr (.inr ⟨_, rfl⟩))

/-- Settles O41: a transfer writes no control register, and each configuration operation its own. -/
theorem controlRegistersHaveOneWriter : Obligations.ControlRegistersHaveOneWriter := by
  intro i s t h
  obtain ⟨cmd, dh, dl, -, rfl⟩ | ⟨cmd, dh, dl, -, rfl⟩ | ⟨hi, -⟩ := exec_next h
  · exact ⟨fun _ => rfl, fun _ => rfl, fun _ => rfl⟩
  · rw [queryNext_eq]
    exact ⟨fun _ => rfl, fun _ => rfl, fun _ => rfl⟩
  · obtain ⟨v, x, rfl, rfl⟩ | ⟨a, rfl, rfl⟩ | ⟨x, rfl, rfl⟩ | ⟨w, rfl⟩ := exec_next_of_no_transfer hi h
    · exact ⟨fun other => absurd rfl (other v), fun _ => rfl, fun _ => rfl⟩
    · exact ⟨fun _ => rfl, fun other => absurd rfl (other a), fun _ => rfl⟩
    · exact ⟨fun _ => rfl, fun _ => rfl, fun other => absurd rfl (other x)⟩
    · exact ⟨fun _ => rfl, fun _ => rfl, fun _ => rfl⟩

end Sys2Proof.Machine
end

section
/-! PROOFS. What a step does with its event: a word taken by an idle DFC or held by a busy one (42_operations.md R90), the
accesses of the host port and what they refuse (20_memory.md R35), and that nothing faults (60_exceptions.md R112). -/

namespace Sys2Proof.Machine

/-! ### A presented word that decodes -/

theorem acceptCall_ok {p : Encoded} {i : Instr} (h : decode p = .ok i) (s : State) : acceptCall p s = exec i s := by
  simp [acceptCall, h]

theorem acceptStart_of_no_transfer {p : Encoded} {i : Instr} (h : decode p = .ok i) (hi : transferOf i = none)
    (s : State) : acceptStart p s = exec i s := by
  simp [acceptStart, h, hi]

theorem acceptStart_of_transfer {p : Encoded} {i : Instr} {x : Transfer} {cmd dh dl : Byte} (h : decode p = .ok i)
    (hi : transferOf i = some (x, cmd, dh, dl)) (s : State) :
    acceptStart p s = .next (beginTransfer x cmd dh dl s) := by
  simp [acceptStart, h, hi]

/-- Settles O6: a call and a write to `REQ` both come to `acceptCall`. -/
theorem stepRunsDecodedInstruction : Obligations.StepRunsDecodedInstruction := by
  rintro s p rest i hb hp (hi | ⟨w, rfl, hi⟩)
  · rw [step_call hb hi, acceptCall_ok hp]
  · rw [step_writeReq hb hi, acceptCall_ok hp]

/-- A table word that decodes has a presented form, and the decoder reads that form. -/
theorem presented_of_decodeTableWord {nbits w : Nat} {i : Instr} (h : decodeTableWord nbits w = some i) :
    ∃ p, presentTableWord nbits w = some p ∧ decode p = .ok i := by
  unfold decodeTableWord at h
  split at h
  · cases h
  · rename_i p hp
    split at h
    · rename_i j hj
      injection h with h
      exact ⟨p, hp, h ▸ hj⟩
    · cases h

/-- Settles O7: the placed word is the call that comes first, and the state with it taken is the one it was placed in. -/
theorem placedWordRunsNext : Obligations.PlacedWordRunsNext := by
  intro s nbits w i h
  obtain ⟨p, hp, hd⟩ := presented_of_decodeTableWord h
  have placed : s.withFetchWord nbits w = { s with inputs := .call p :: s.inputs, busy := false } := by
    simp [State.withFetchWord, presentNext, hp]
  rw [placed, step_call rfl rfl, acceptCall_ok hd]

/-- Settles O8: the walk begins with the frame written at position 0 of `TXB`; what has no walk runs as a call does. -/
theorem startBeginsWalk : Obligations.StartBeginsWalk := by
  intro s p rest i hb hp hi
  rw [step_start hb hi]
  refine ⟨fun none => acceptStart_of_no_transfer hp none _, fun x cmd dh dl transfer => ?_⟩
  refine ⟨Memory.writeBlock s.txb 0 (buildFrame cmd dh dl s), wrote_writeBlock .., ?_⟩
  rw [acceptStart_of_transfer hp transfer, ← txLenOf_eq_ite]
  rfl

/-! ### A presented word while busy -/

/-- Settles O52: the step is a free step of the walk, which keeps the events, `TXB` and the control registers. -/
theorem requestHeldWhileBusy : Obligations.RequestHeldWhileBusy := by
  rintro s hb ⟨p, rest, hi⟩
  have held : Held s.inputs := by
    rcases hi with hi | hi | ⟨w, hi⟩ <;> rw [hi] <;> trivial
  obtain ⟨htxb, hvariant, hack, htimeout, -, hinputs⟩ := freeStep_keeps s
  exact ⟨freeStep s, step_busy hb held, hinputs, htxb, hvariant, hack, htimeout⟩

/-! ### Events that are no access of the host -/

theorem step_arrives {s : State} {A : Bytes} {rest : List Input} (hi : s.inputs = .arrives A :: rest) :
    step s = .next (arrive A { s with inputs := rest }) := by
  simp [step, stepOnce, hi]

/-- Settles O53: the step is the transport's own. -/
theorem arrivalChangesPendingOnly : Obligations.ArrivalChangesPendingOnly := fun _ _ _ hi => step_arrives hi

theorem step_tick {s : State} {rest : List Input} (hi : s.inputs = .tick :: rest) :
    step s = .next (tickStep { s with inputs := rest }) := by
  simp [step, stepOnce, hi]

theorem step_proceed {s : State} {rest : List Input} (hi : s.inputs = .proceed :: rest) :
    step s = .next (if s.busy then phaseStep { s with inputs := rest } else { s with inputs := rest }) := by
  simp [step, stepOnce, hi]

theorem step_idle {s : State} (hb : s.busy = false) (hi : s.inputs = []) : step s = .next (arriveFree s) := by
  simp [step, stepOnce, hi, hb, idleStep]

/-- Settles O54: the step is a free arrival. -/
theorem idleChangesNoRegister : Obligations.IdleChangesNoRegister := fun s hb hi =>
  ⟨Config.arrival s.draws, s.draws + 1, step_idle hb hi⟩

/-! ### The host port -/

section HostPort

variable {s : State} {rest : List Input} {a : Byte}

theorem not_listedIndex_req : ¬ ListedIndex 0x00#8 := by simp [ListedIndex]

theorem viewContent_of_listed (ha : ListedIndex a) (s : State) : ∃ w, viewContent a s = some w :=
  Option.ne_none_iff_exists'.1 fun none => (viewContent_eq_none a s).1 none ha

theorem step_busRead_req (hi : s.inputs = .busRead 0x00#8 :: rest) :
    step s = .refused (.writeOnlyIndex 0x00#8) := by
  rw [step_busRead hi]
  rfl

theorem step_busRead_unlisted (hi : s.inputs = .busRead a :: rest) (hne : a ≠ 0x00#8) (ha : ¬ ListedIndex a) :
    step s = .refused (.noSuchIndex a) := by
  rw [step_busRead hi, busReadStep, if_neg hne, (viewContent_eq_none ..).2 ha]

/-- At an idle time a view answers with its content (R35). -/
theorem step_busRead_idle {w : BitVec 32} (hb : s.busy = false) (hi : s.inputs = .busRead a :: rest)
    (hw : viewContent a s = some w) : step s = .next { s with inputs := rest, answer := .view w } :=
  (step_busRead hi).trans (busReadStep_idle (s := { s with inputs := rest }) hb hw)

theorem busReadStep_busy (hb : s.busy = true) (ha : ListedIndex a) :
    busReadStep a s =
      .next { s with answer := .view (Config.busyView s.draws &&& viewMask a), draws := s.draws + 1 } := by
  have hne : a ≠ 0x00#8 := fun h => not_listedIndex_req (h ▸ ha)
  obtain ⟨w, hw⟩ := viewContent_of_listed ha s
  simp [busReadStep, hne, hw, hb, handBack]

/-- At a busy time a listed view answers with a free value of the view's bits (U14; log 14). -/
theorem step_busRead_busy (hb : s.busy = true) (hi : s.inputs = .busRead a :: rest) (ha : ListedIndex a) :
    step s = .next { s with inputs := rest, answer := .view (Config.busyView s.draws &&& viewMask a),
                            draws := s.draws + 1 } :=
  (step_busRead hi).trans (busReadStep_busy (s := { s with inputs := rest }) hb ha)

theorem step_busWrite_stray {w : ReqWord} (hi : s.inputs = .busWrite a w :: rest) (hne : a ≠ 0x00#8) :
    step s = strayWrite a { s with inputs := rest } := by
  simp [step, stepOnce, hi, hne]

theorem step_busWrite_listed {w : ReqWord} (hi : s.inputs = .busWrite a w :: rest) (ha : ListedIndex a) :
    step s = .refused (.readOnlyIndex a) := by
  obtain ⟨v, hv⟩ := viewContent_of_listed ha { s with inputs := rest }
  rw [step_busWrite_stray hi fun h => not_listedIndex_req (h ▸ ha), strayWrite, hv]

theorem step_busWrite_unlisted {w : ReqWord} (hi : s.inputs = .busWrite a w :: rest) (hne : a ≠ 0x00#8)
    (ha : ¬ ListedIndex a) : step s = .refused (.noSuchIndex a) := by
  rw [step_busWrite_stray hi hne, strayWrite, (viewContent_eq_none ..).2 ha]

end HostPort

/-- Settles O51: the four accesses R35 does not give, one lemma each. -/
theorem strayAccessesRefused : Obligations.StrayAccessesRefused := fun _ _ _ _ =>
  ⟨fun hi ha => ha ▸ step_busRead_req (ha ▸ hi), step_busRead_unlisted, step_busWrite_listed, step_busWrite_unlisted⟩

/-! ### What a read view shows -/

/-- The views of the ten positions of each buffer (R35). -/
theorem viewContent_buffers (s : State) {i : Nat} (hi : i < 10) :
    viewContent (BitVec.ofNat 8 (0x10 + i)) s = some ((Memory.read s.txb i).setWidth 32) ∧
    viewContent (BitVec.ofNat 8 (0x20 + i)) s = some ((Memory.read s.rxb i).setWidth 32) := by
  interval_cases i <;> exact ⟨rfl, rfl⟩

/-- A value under the mask of a view is at most the mask. -/
theorem toNat_and_le (x mask : BitVec 32) : (x &&& mask).toNat ≤ mask.toNat := by
  rw [BitVec.toNat_and]
  exact Nat.and_le_right

/-- The mask of a buffer's view is one byte. -/
theorem viewMask_buffers {a : Byte} (ha : 0x10 ≤ a.toNat) : viewMask a = 0xFF#32 := by
  have hne : ∀ k : Byte, k.toNat < 0x10 → a ≠ k := fun k hk h => by rw [h] at ha; omega
  simp [viewMask, hne]

/-- Settles O50: idle, each view's content is its register, widened; busy, the value is masked by the view's bits. -/
theorem readViewsShowRegisters : Obligations.ReadViewsShowRegisters := by
  intro s rest read
  refine ⟨fun hb => ?_, fun hb a ha => ⟨Config.busyView s.draws &&& viewMask a, s.draws + 1, ?_⟩⟩
  · have shows : ∀ {a : Byte} {w : BitVec 32}, viewContent a s = some w → read a w := fun {a w} hw =>
      step_busRead_idle (s := { s with inputs := .busRead a :: rest }) hb rfl hw
    refine ⟨shows ?_, shows ?_, ⟨statusWord s, exec_status s, shows rfl⟩, shows ?_, shows rfl, shows rfl,
      shows rfl, shows ?_, shows ?_, fun i hi => (viewContent_buffers s hi).imp shows shows⟩
    · rfl
    · show some ((failCode s.fail).setWidth 32) = _
      cases s.fail with
      | none => rfl
      | some r => cases r <;> rfl
    · show some ((variantCode s.variant).setWidth 32) = _
      cases s.variant <;> rfl
    · show some (BitVec.ofNat 32 s.txlen.toNat) = _
      cases s.txlen <;> rfl
    · show some (BitVec.ofNat 32 (if s.busy then 1 else 0)) = _
      rw [hb]
      rfl
  · have bound := toNat_and_le (Config.busyView s.draws) (viewMask a)
    refine ⟨step_busRead_busy hb rfl ha, ?_, ?_, ?_, ?_, ?_, ?_, fun h => ?_⟩
    · rintro (rfl | rfl) <;> exact Nat.lt_of_le_of_lt bound (by decide)
    · rintro rfl
      exact Nat.lt_of_le_of_lt bound (by decide)
    · rintro rfl
      exact Nat.lt_of_le_of_lt bound (by decide)
    · rintro rfl
      exact Nat.lt_of_le_of_lt bound (by decide)
    · rintro (rfl | rfl) <;> exact Nat.lt_of_le_of_lt bound (by decide)
    · rintro (rfl | rfl) <;> exact Nat.lt_of_le_of_lt bound (by decide)
    · rw [viewMask_buffers h] at bound ⊢
      exact Nat.lt_of_le_of_lt bound (by decide)

/-! ### Every step completes or is refused for a named cause -/

theorem exists_variantCode {v : BitVec 2} (h : v ≠ 3#2) : ∃ x, v = variantCode x := by
  have cases : ∀ v : BitVec 2, v ≠ 3#2 → v = 0#2 ∨ v = 1#2 ∨ v = 2#2 := by decide
  rcases cases v h with rfl | rfl | rfl
  · exact ⟨.std, rfl⟩
  · exact ⟨.alt, rfl⟩
  · exact ⟨.nock, rfl⟩

/-- Every well-formed instruction completes, in every state (60_exceptions.md R112). -/
theorem exec_completes {i : Instr} (hi : i.wellFormed = true) (s : State) : ∃ t, exec i s = .next t := by
  cases i with
  | setvar v =>
    obtain ⟨x, rfl⟩ := exists_variantCode (bne_iff_ne.mp hi)
    exact ⟨_, exec_setvar_variantCode x s⟩
  | _ => exact ⟨_, rfl⟩

/-- A presented word completes, or is refused because the decoder rejects it and it is no inbound block (R54; log 22). -/
theorem rejected_outcome (p : Encoded) (e : Reject) (s : State) :
    (∃ t, rejected p e s = .next t) ∨ (∀ R, p ≠ .inFrame R) ∧ rejected p e s = .refused (.undecodable e) := by
  cases p with
  | inFrame R => exact .inl ⟨_, rfl⟩
  | req32 | outFrame | code => exact .inr ⟨fun _ h => (nomatch h), rfl⟩

theorem acceptCall_outcome (p : Encoded) (s : State) :
    (∃ t, acceptCall p s = .next t) ∨
    ∃ e, decode p = .error e ∧ (∀ R, p ≠ .inFrame R) ∧ acceptCall p s = .refused (.undecodable e) := by
  cases h : decode p with
  | ok i =>
    rw [acceptCall_ok h]
    exact .inl (exec_completes (decode_wellFormed h) s)
  | error e =>
    rw [acceptCall_error h]
    exact (rejected_outcome p e s).imp_right fun refused => ⟨e, rfl, refused⟩

theorem acceptStart_outcome (p : Encoded) (s : State) :
    (∃ t, acceptStart p s = .next t) ∨
    ∃ e, decode p = .error e ∧ (∀ R, p ≠ .inFrame R) ∧ acceptStart p s = .refused (.undecodable e) := by
  cases h : decode p with
  | ok i =>
    cases hi : transferOf i with
    | none =>
      rw [acceptStart_of_no_transfer h hi]
      exact .inl (exec_completes (decode_wellFormed h) s)
    | some x => exact .inl ⟨_, acceptStart_of_transfer h hi s⟩
  | error e =>
    rw [acceptStart_error h]
    exact (rejected_outcome p e s).imp_right fun refused => ⟨e, rfl, refused⟩

/-- The usage-precondition violations a step can meet (60_exceptions.md R116), each with the name it is refused under. -/
inductive Violation (s : State) : Refusal → Prop
  | word (p : Encoded) (e : Reject) (rest : List Input) (rejects : decode p = .error e) (idle : s.busy = false)
      (noBlock : ∀ R, p ≠ .inFrame R)
      (presented : s.inputs = .call p :: rest ∨ s.inputs = .start p :: rest ∨
        ∃ w, p = .req32 w ∧ s.inputs = .busWrite 0x00#8 w :: rest) : Violation s (.undecodable e)
  | readReq (rest : List Input) (reads : s.inputs = .busRead 0x00#8 :: rest) : Violation s (.writeOnlyIndex 0x00#8)
  | readUnlisted (a : Byte) (rest : List Input) (reads : s.inputs = .busRead a :: rest) (other : a ≠ 0x00#8)
      (unlisted : ¬ ListedIndex a) : Violation s (.noSuchIndex a)
  | writeView (a : Byte) (w : ReqWord) (rest : List Input) (writes : s.inputs = .busWrite a w :: rest)
      (other : a ≠ 0x00#8) (listed : ListedIndex a) : Violation s (.readOnlyIndex a)
  | writeUnlisted (a : Byte) (w : ReqWord) (rest : List Input) (writes : s.inputs = .busWrite a w :: rest)
      (other : a ≠ 0x00#8) (unlisted : ¬ ListedIndex a) : Violation s (.noSuchIndex a)

/-- Every step completes, or is refused for a violation. -/
theorem step_outcome (s : State) : (∃ t, step s = .next t) ∨ ∃ r, step s = .refused r ∧ Violation s r := by
  cases hi : s.inputs with
  | nil =>
    cases hb : s.busy with
    | true => exact .inl ⟨_, step_busy hb (by rw [hi]; trivial)⟩
    | false => exact .inl ⟨_, step_idle hb hi⟩
  | cons e rest =>
    cases e with
    | arrives A => exact .inl ⟨_, step_arrives hi⟩
    | tick => exact .inl ⟨_, step_tick hi⟩
    | proceed => exact .inl ⟨_, step_proceed hi⟩
    | reset => exact .inl ⟨_, step_resetInput hi⟩
    | call p =>
      cases hb : s.busy with
      | true => exact .inl ⟨_, step_busy hb (by rw [hi]; trivial)⟩
      | false =>
        rw [step_call hb hi]
        exact (acceptCall_outcome p _).imp_right fun ⟨e, he, hp, hr⟩ => ⟨_, hr, .word p e rest he hb hp (.inl hi)⟩
    | start p =>
      cases hb : s.busy with
      | true => exact .inl ⟨_, step_busy hb (by rw [hi]; trivial)⟩
      | false =>
        rw [step_start hb hi]
        exact (acceptStart_outcome p _).imp_right fun ⟨e, he, hp, hr⟩ =>
          ⟨_, hr, .word p e rest he hb hp (.inr (.inl hi))⟩
    | busRead a =>
      by_cases h0 : a = 0x00#8
      · subst h0
        exact .inr ⟨_, step_busRead_req hi, .readReq rest hi⟩
      by_cases ha : ListedIndex a
      · cases hb : s.busy with
        | true => exact .inl ⟨_, step_busRead_busy hb hi ha⟩
        | false =>
          obtain ⟨w, hw⟩ := viewContent_of_listed ha s
          exact .inl ⟨_, step_busRead_idle hb hi hw⟩
      · exact .inr ⟨_, step_busRead_unlisted hi h0 ha, .readUnlisted a rest hi h0 ha⟩
    | busWrite a w =>
      by_cases h0 : a = 0x00#8
      · subst h0
        cases hb : s.busy with
        | true => exact .inl ⟨_, step_busy hb (by rw [hi]; rfl)⟩
        | false =>
          rw [step_writeReq hb hi]
          exact (acceptCall_outcome _ _).imp_right fun ⟨e, he, hp, hr⟩ =>
            ⟨_, hr, .word _ e rest he hb hp (.inr (.inr ⟨w, rfl, hi⟩))⟩
      by_cases ha : ListedIndex a
      · exact .inr ⟨_, step_busWrite_listed hi ha, .writeView a w rest hi h0 ha⟩
      · exact .inr ⟨_, step_busWrite_unlisted hi h0 ha, .writeUnlisted a w rest hi h0 ha⟩

/-- Settles O47: every step completes or is refused. -/
theorem stepNeverFaults : Obligations.StepNeverFaults := by
  intro s r h
  rcases step_outcome s with ⟨t, ht⟩ | ⟨x, hx, -⟩
  · cases h.symm.trans ht
  · cases h.symm.trans hx

/-- Settles O48: a refused step met one of the violations, and each is one clause of the list. -/
theorem refusalsAreUsageViolations : Obligations.RefusalsAreUsageViolations := by
  intro s r h
  rcases step_outcome s with ⟨t, ht⟩ | ⟨x, hx, violation⟩
  · cases h.symm.trans ht
  cases h.symm.trans hx
  cases violation with
  | word p e rest rejects idle noBlock presented => exact .inl ⟨p, e, rest, rejects, rfl, idle, noBlock, presented⟩
  | readReq rest reads => exact .inr (.inl ⟨_, rest, reads, .inl ⟨rfl, rfl⟩⟩)
  | readUnlisted a rest reads other unlisted => exact .inr (.inl ⟨a, rest, reads, .inr ⟨rfl, other, unlisted⟩⟩)
  | writeView a w rest writes other listed => exact .inr (.inr ⟨a, w, rest, writes, other, .inl ⟨rfl, listed⟩⟩)
  | writeUnlisted a w rest writes other unlisted =>
    exact .inr (.inr ⟨a, w, rest, writes, other, .inr ⟨rfl, unlisted⟩⟩)

/-! ### The positions of the buffers -/

section Buffers

variable {sp : Space} {a : Nat} {v : Byte} {s : State}

theorem memRead_of_le (h : a ≤ 9) : memRead sp a s = .ok (Memory.read (spaceOf sp s) a) := if_pos h

theorem memRead_of_ge (h : 10 ≤ a) : memRead sp a s = .error (.noSuchPosition sp a) := if_neg (by omega)

theorem memWrite_of_ge (h : 10 ≤ a) : memWrite sp a v s = .error (.noSuchPosition sp a) := if_neg (by omega)

/-- A write to an existing position succeeds and changes the byte there, of its own buffer alone. -/
theorem memWrite_of_le (h : a ≤ 9) : ∃ t, memWrite sp a v s = .ok t ∧ ∀ sp' a',
    Memory.read (spaceOf sp' t) a' = if (sp', a') = (sp, a) then v else Memory.read (spaceOf sp' s) a' := by
  unfold memWrite
  rw [if_pos h]
  cases sp with
  | txbuf =>
    refine ⟨_, rfl, fun sp' a' => ?_⟩
    cases sp' <;> simp [spaceOf]
  | rxbuf =>
    refine ⟨_, rfl, fun sp' a' => ?_⟩
    cases sp' <;> simp [spaceOf]

end Buffers

/-- Settles O57: of the byte read after a write `memWrite_of_le` says which it is; past 9 both are out of range. -/
theorem bufferPositions : Obligations.BufferPositions := by
  refine fun sp a v s => ⟨fun ha => ?_, fun ha => ⟨memRead_of_ge ha, memWrite_of_ge ha⟩⟩
  obtain ⟨t, hw, hr⟩ := memWrite_of_le (sp := sp) (v := v) (s := s) ha
  refine ⟨t, _, memRead_of_le ha, hw, ?_, fun sp' a' hne => ?_⟩
  · rw [memRead_of_le ha, hr, if_pos rfl]
  · unfold memRead
    rw [hr, if_neg hne]

end Sys2Proof.Machine
end

section
/-! PROOFS. What a step can do to the registers, said once, and what follows for every step: the invariant, the wire, the
arcs of the phase walk and the timer (10_state.md R19 to R22, 70_reset_and_hazards.md R125). -/

namespace Sys2Proof.Machine

/-! ### The moves of the machine -/

/-- What one step of the phase walk does, phase by phase (10_state.md R20, R21). -/
inductive Walked (s : State) : State → Prop
  | stray (phase : s.phase = .idle) : Walked s { s with busy := false, cur := none }
  | writes (phase : s.phase = .tx) (left : s.idx.val < frameLen s.variant) :
      Walked s { txWrite [Memory.read s.txb s.idx.val] s with idx := s.idx + 1 }
  | endsSend (phase : s.phase = .tx) (noQuery : s.cur ≠ some .query) : Walked s (finish .silent s)
  | turns (phase : s.phase = .tx) (query : s.cur = some .query) : Walked s { s with phase := .flush }
  | flushes (phase : s.phase = .flush) : Walked s (flushStep s)
  | closes (phase : s.phase = .rx) (ended : s.tmr = 0#16 ∨ frameLen s.variant ≤ s.idx.val) : Walked s (closeRead s)
  | waits (phase : s.phase = .rx) : Walked s s
  | takes (phase : s.phase = .rx) (running : s.tmr ≠ 0#16) (left : s.idx.val + 1 < frameLen s.variant) (b : Byte)
      (rest : Bytes) : Walked s (takeByte b rest s)
  | takesLast (phase : s.phase = .rx) (last : s.idx.val + 1 = frameLen s.variant) (b : Byte) (rest : Bytes) :
      Walked s (closeRead (takeByte b rest s))
  | checks (phase : s.phase = .check) : Walked s (checkStep s)

theorem rxStep_walked {s : State} (hp : s.phase = .rx) : Walked s (rxStep s) := by
  unfold rxStep
  split_ifs with hzero hfull
  · exact .closes hp (.inl hzero)
  · exact .closes hp (.inr hfull)
  · split
    · exact .waits hp
    · rename_i b rest _
      have bound := frameLen_le s.variant
      have next : (s.idx + 1).val = s.idx.val + 1 := val_idx_succ s.idx (by omega)
      unfold closeIfFull
      split_ifs with last
      · exact .takesLast hp (by rw [takeByte_variant, takeByte_idx] at last; omega) b rest
      · exact .takes hp hzero (by rw [takeByte_variant, takeByte_idx] at last; omega) b rest

theorem phaseStep_walked (s : State) : Walked s (phaseStep s) := by
  unfold phaseStep
  split
  · rename_i hp
    exact .stray hp
  · rename_i hp
    unfold txStep
    split_ifs with left
    · exact .writes hp left
    · split
      · rename_i hc
        exact .turns hp hc
      · rename_i hc
        exact .endsSend hp hc
  · rename_i hp
    exact .flushes hp
  · rename_i hp
    exact rxStep_walked hp
  · rename_i hp
    exact .checks hp

/-- What a step but reset does, once the fields of the agents outside are what the step makes them. -/
inductive Moved (s : State) : State → Prop
  | stays : Moved s s
  | walks (busy : s.busy = true) (t : State) (walked : Walked s t) : Moved s t
  | ticks : Moved s (tickStep s)
  | begins (idle : s.busy = false) (x : Transfer) (cmd dh dl : Byte) : Moved s (beginTransfer x cmd dh dl s)
  | runs (idle : s.busy = false) (i : Instr) (t : State) (ran : exec i s = .next t) : Moved s t

/-- The state with the fields that belong to the agents outside, the wire apart, at other values (log 3, log 7, log 17). -/
def withAgents (inputs : List Input) (pending : Bytes) (answer : Answer) (draws : Nat) (s : State) : State :=
  { s with inputs := inputs, pending := pending, answer := answer, draws := draws }

/-- Every step is a move, or a reset, of the state with the agents' fields brought up to date. -/
theorem step_moved {s t : State} (h : step s = .next t) : ∃ r p w d,
    (s.inputs.head? = some .reset ∧ t = resetEvent (withAgents r p w d s)) ∨ Moved (withAgents r p w d s) t := by
  cases step_next h with
  | idle hb hi => exact ⟨s.inputs, _, s.answer, s.draws + 1, .inr .stays⟩
  | free hb hi =>
    refine ⟨s.inputs, s.pending ++ Config.arrival s.draws, s.answer, s.draws + 1, .inr ?_⟩
    rcases freeStep_cases s with ⟨-, -, he⟩ | ⟨-, he⟩ <;> rw [he]
    · exact .ticks
    · exact .walks (by exact hb) _ (phaseStep_walked _)
  | proceeded rest hb hi =>
    exact ⟨rest, s.pending, s.answer, s.draws, .inr (.walks (by exact hb) _ (phaseStep_walked _))⟩
  | waited rest hb hi => exact ⟨rest, s.pending, s.answer, s.draws, .inr .stays⟩
  | arrived A rest hi => exact ⟨rest, s.pending ++ A, s.answer, s.draws, .inr .stays⟩
  | ticked rest hi => exact ⟨rest, s.pending, s.answer, s.draws, .inr .ticks⟩
  | wasReset rest hi => exact ⟨rest, s.pending, s.answer, s.draws, .inl ⟨by rw [hi]; rfl, rfl⟩⟩
  | answered e rest hi he w n => exact ⟨rest, s.pending, w, n, .inr .stays⟩
  | began p rest hb hi x cmd dh dl =>
    exact ⟨rest, s.pending, s.answer, s.draws, .inr (.begins (by exact hb) x cmd dh dl)⟩
  | ran e rest hb hi he i t hx => exact ⟨rest, s.pending, s.answer, s.draws, .inr (.runs (by exact hb) i _ hx)⟩

/-! ### The wire -/

theorem Walked.out {s t : State} (h : Walked s t) : ∃ F, t.out = s.out ++ F := by
  cases h with
  | writes => exact ⟨_, rfl⟩
  | stray | endsSend | turns | flushes | closes | waits | takes | takesLast | checks =>
    exact ⟨[], by simp [checkStep, flushStep]⟩

theorem Moved.out {s t : State} (h : Moved s t) : ∃ F, t.out = s.out ++ F := by
  cases h with
  | stays => exact ⟨[], by simp⟩
  | walks _ _ walked => exact walked.out
  | ticks => obtain ⟨-, h⟩ | ⟨-, -, h⟩ | ⟨-, -, h⟩ := tickStep_cases s <;> exact ⟨[], by simp [h]⟩
  | begins => exact ⟨[], by simp [beginTransfer]⟩
  | runs _ i t ran =>
    obtain ⟨cmd, dh, dl, -, rfl⟩ | ⟨cmd, dh, dl, -, rfl⟩ | ⟨-, v, a, x, w, rfl⟩ := exec_next ran
    · exact ⟨_, rfl⟩
    · exact ⟨buildFrame cmd dh dl s, by rw [queryNext_eq]⟩
    · exact ⟨[], by simp⟩

/-- Settles O49: no move takes a byte back from the wire, and reset keeps it. -/
theorem outOnlyGrows : Obligations.OutOnlyGrows := by
  intro s t h
  obtain ⟨r, p, w, d, ⟨-, rfl⟩ | moved⟩ := step_moved h
  · exact ⟨[], (List.append_nil _).symm⟩
  · exact moved.out

/-! ### The invariant, idle -/

section

variable {s : State}

theorem StateInv.phase_of_idle (inv : StateInv s) (hb : s.busy = false) : s.phase = .idle := by
  by_contra hp
  simp [inv.busy_iff.2 hp] at hb

theorem StateInv.busy_of_phase (inv : StateInv s) (hp : s.phase ≠ .idle) : s.busy = true := inv.busy_iff.2 hp

theorem StateInv.cur_of_idle (inv : StateInv s) (hp : s.phase = .idle) : s.cur = none := by
  have fits := inv.cur_fits
  rw [hp] at fits
  cases h : s.cur with
  | none => rfl
  | some x => simp [h, phaseTransfer] at fits

/-- Of an idle DFC the invariant asks for canonical buffers and a consistent record of the last QUERY. -/
theorem stateInv_of_idle (hb : s.busy = false) (hp : s.phase = .idle) (hc : s.cur = none)
    (htxb : Memory.wf s.txb = true) (hrxb : Memory.wf s.rxb = true) (hsentinel : s.result ≠ 0#16 → s.fail = none)
    (hwhole : ∀ r, s.fail = some r → r ≠ .incomplete → s.rxcnt.val = 8 ∨ s.rxcnt.val = 10) : StateInv s where
  txb_wf := htxb
  rxb_wf := hrxb
  busy_iff := by simp [hb, hp]
  cur_fits := by rw [hp, hc]; rfl
  txlen_busy := by simp [hb]
  idx_busy := by simp [hb]
  room_rx := by simp [hp]
  timer_rx := by simp [hp]
  count_check := by simp [hp]
  sentinel := hsentinel
  whole_block := fun r hr hne _ => hwhole r hr hne

/-- The invariant says nothing of the fields of the agents outside. -/
theorem StateInv.withAgents (inv : StateInv s) (r : List Input) (p : Bytes) (w : Answer) (d : Nat) :
    StateInv (withAgents r p w d s) :=
  ⟨inv.txb_wf, inv.rxb_wf, inv.busy_iff, inv.cur_fits, inv.txlen_busy, inv.idx_busy, inv.room_rx, inv.timer_rx,
    inv.count_check, inv.sentinel, inv.whole_block⟩

/-- The registers of the last QUERY keep their consistency where nothing writes them. -/
theorem StateInv.whole_block_idle (inv : StateInv s) (hp : s.phase = .idle) (r : Failure) (hr : s.fail = some r)
    (hne : r ≠ .incomplete) : s.rxcnt.val = 8 ∨ s.rxcnt.val = 10 :=
  inv.whole_block r hr hne (by simp [hp])

end

theorem stateInv_reset : StateInv State.reset :=
  stateInv_of_idle rfl rfl rfl rfl rfl (fun h => absurd rfl h) (fun _ h => nomatch h)

/-- Settles O45: reset is an idle state with empty buffers and no outcome. -/
theorem invAtReset : Obligations.InvAtReset := stateInv_reset

/-- Settles O43: the values of `State.reset`, and empty buffers. -/
theorem resetValues : Obligations.ResetValues :=
  ⟨rfl, rfl, rfl, Memory.read_nil, Memory.read_nil, rfl, rfl, rfl, rfl, rfl, rfl, rfl, rfl⟩

theorem stateInv_resetEvent (s : State) : StateInv (resetEvent s) :=
  stateInv_of_idle rfl rfl rfl rfl rfl (fun h => absurd rfl h) (fun _ h => nomatch h)

/-! ### The outcome a QUERY records -/

theorem failOf_eq_none_of_resultOf {d : Decoded} (h : resultOf d ≠ 0#16) : failOf d = none := by
  by_contra hf
  exact h (resultOf_of_failOf_ne_none hf)

/-- A recorded reason other than `Incomplete` is of a block of eight or ten bytes (10_state.md R16). -/
theorem length_of_failOf {R : Bytes} {exp : Byte} {v : Variant} {r : Failure}
    (h : failOf (decodeBlock R exp v) = some r) (hne : r ≠ .incomplete) : R.length = 8 ∨ R.length = 10 := by
  rw [length_of_decode_fail R exp v r ((failOf_eq_some_iff ..).1 h) hne, frameLen_eq_ite]
  split_ifs <;> simp

/-! ### The invariant, when an idle DFC runs or accepts an instruction -/

theorem wf_frame {s : State} (cmd dh dl : Byte) (h : Memory.wf s.txb = true) :
    Memory.wf (Memory.writeBlock s.txb 0 (buildFrame cmd dh dl s)) = true :=
  wf_transmit cmd dh dl s h

theorem stateInv_exec {i : Instr} {s t : State} (inv : StateInv s) (hb : s.busy = false) (h : exec i s = .next t) :
    StateInv t := by
  have hp := inv.phase_of_idle hb
  have hc := inv.cur_of_idle hp
  obtain ⟨cmd, dh, dl, -, rfl⟩ | ⟨cmd, dh, dl, -, rfl⟩ | ⟨-, v, a, x, w, rfl⟩ := exec_next h
  · exact stateInv_of_idle hb hp hc (wf_frame cmd dh dl inv.txb_wf) inv.rxb_wf inv.sentinel (inv.whole_block_idle hp)
  · have hlen : ((nextDraw s).take (frameLen s.variant)).length ≤ 10 :=
      (List.length_take_le ..).trans (frameLen_le s.variant)
    rw [queryNext_eq]
    refine stateInv_of_idle hb hp hc (wf_frame cmd dh dl inv.txb_wf)
      (Memory.wf_writeBlock _ _ _ inv.rxb_wf (by omega)) failOf_eq_none_of_resultOf fun r hr hne => ?_
    rw [val_ofNat_length _ hlen]
    exact length_of_failOf hr hne
  · exact stateInv_of_idle hb hp hc inv.txb_wf inv.rxb_wf inv.sentinel (inv.whole_block_idle hp)

theorem stateInv_beginTransfer {s : State} (inv : StateInv s) (hb : s.busy = false) (x : Transfer) (cmd dh dl : Byte) :
    StateInv (beginTransfer x cmd dh dl s) where
  txb_wf := wf_frame cmd dh dl inv.txb_wf
  rxb_wf := inv.rxb_wf
  busy_iff := by simp [beginTransfer]
  cur_fits := rfl
  txlen_busy := fun _ => rfl
  idx_busy := fun _ => Nat.zero_le _
  room_rx := fun h => nomatch h
  timer_rx := fun h => nomatch h
  count_check := fun h => nomatch h
  sentinel := inv.sentinel
  whole_block := fun r hr hne _ => inv.whole_block_idle (inv.phase_of_idle hb) r hr hne

/-! ### The invariant in the bounded read -/

/-- What holds all through phase RX, also in the instant in which the read ends: the invariant without the two claims that
the read has not ended. -/
structure Reading (s : State) : Prop where
  txb_wf : Memory.wf s.txb = true
  rxb_wf : Memory.wf s.rxb = true
  busy : s.busy = true
  phase : s.phase = .rx
  cur : s.cur = some .query
  txlen : s.txlen = txLenOf s.variant
  idx_le : s.idx.val ≤ frameLen s.variant
  sentinel : s.result ≠ 0#16 → s.fail = none
  whole_block : ∀ r, s.fail = some r → r ≠ .incomplete → s.rxcnt.val = 8 ∨ s.rxcnt.val = 10

section

variable {s : State}

/-- After phase TX only a QUERY goes on (10_state.md R20). -/
theorem StateInv.cur_of_reply (inv : StateInv s) (hi : s.phase ≠ .idle) (ht : s.phase ≠ .tx) :
    s.cur = some .query := by
  have fits := inv.cur_fits
  unfold phaseTransfer at fits
  split at fits <;> simp_all

theorem StateInv.reading (inv : StateInv s) (hp : s.phase = .rx) : Reading s :=
  have hb : s.busy = true := inv.busy_of_phase (by simp [hp])
  ⟨inv.txb_wf, inv.rxb_wf, hb, hp, inv.cur_of_reply (by simp [hp]) (by simp [hp]), inv.txlen_busy hb, inv.idx_busy hb,
    inv.sentinel, fun r hr hne => inv.whole_block r hr hne (by simp [hp])⟩

theorem Reading.stateInv (h : Reading s) (room : s.idx.val < frameLen s.variant)
    (timer : s.tmr = 0#16 → s.timeout = 0#16) : StateInv s where
  txb_wf := h.txb_wf
  rxb_wf := h.rxb_wf
  busy_iff := by simp [h.busy, h.phase]
  cur_fits := by rw [h.phase, h.cur]; rfl
  txlen_busy := fun _ => h.txlen
  idx_busy := fun _ => h.idx_le
  room_rx := fun _ => room
  timer_rx := fun _ => timer
  count_check := by simp [h.phase]
  sentinel := h.sentinel
  whole_block := fun r hr hne _ => h.whole_block r hr hne

theorem Reading.countDown (h : Reading s) : Reading (countDown s) :=
  ⟨h.txb_wf, h.rxb_wf, h.busy, h.phase, h.cur, h.txlen, h.idx_le, h.sentinel, h.whole_block⟩

theorem Reading.takeByte (h : Reading s) (room : s.idx.val < frameLen s.variant) (b : Byte) (rest : Bytes) :
    Reading (takeByte b rest s) := by
  have bound := frameLen_le s.variant
  have next : (s.idx + 1).val = s.idx.val + 1 := val_idx_succ s.idx (by omega)
  exact ⟨h.txb_wf, Memory.wf_write _ _ _ h.rxb_wf (by omega), h.busy, h.phase, h.cur, h.txlen, next.trans_le room,
    h.sentinel, h.whole_block⟩

theorem Reading.stateInv_closeRead (h : Reading s) : StateInv (closeRead s) := by
  have bound := frameLen_le s.variant
  have count := val_closeRead s h.idx_le
  have taken : (s.pending.take (frameLen s.variant - s.idx.val)).length ≤ frameLen s.variant - s.idx.val :=
    List.length_take_le ..
  have hidx := h.idx_le
  exact {
    txb_wf := h.txb_wf
    rxb_wf := Memory.wf_writeBlock _ _ _ h.rxb_wf (by omega)
    busy_iff := by simp [h.busy]
    cur_fits := by rw [closeRead_phase, closeRead_cur, h.cur]; rfl
    txlen_busy := fun _ => h.txlen
    idx_busy := fun _ => by rw [count, closeRead_variant]; omega
    room_rx := fun h => nomatch h
    timer_rx := fun h => nomatch h
    count_check := fun _ => rfl
    sentinel := h.sentinel
    whole_block := fun _ _ _ h => absurd rfl h }

end

/-! ### The invariant, step by step -/

theorem stateInv_checkStep {s : State} (inv : StateInv s) : StateInv (checkStep s) :=
  stateInv_of_idle rfl rfl rfl inv.txb_wf inv.rxb_wf failOf_eq_none_of_resultOf fun _ hr hne =>
    Memory.length_block s.rxb s.rxcnt.val ▸ length_of_failOf hr hne

theorem Walked.stateInv {s t : State} (h : Walked s t) (inv : StateInv s) (hb : s.busy = true) : StateInv t := by
  have bound := frameLen_le s.variant
  cases h with
  | stray hp => exact absurd hp (inv.busy_iff.1 hb)
  | writes hp left =>
    have next : (s.idx + 1).val = s.idx.val + 1 := val_idx_succ s.idx (by omega)
    exact ⟨inv.txb_wf, inv.rxb_wf, inv.busy_iff, inv.cur_fits, inv.txlen_busy, fun _ => next.trans_le left,
      fun h => by simp [hp] at h, fun h => by simp [hp] at h, fun h => by simp [hp] at h, inv.sentinel, inv.whole_block⟩
  | endsSend hp =>
    exact stateInv_of_idle rfl rfl rfl inv.txb_wf inv.rxb_wf inv.sentinel
      fun r hr hne => inv.whole_block r hr hne (by simp [hp])
  | turns hp query =>
    exact ⟨inv.txb_wf, inv.rxb_wf, by simp [hb], by simp [query, phaseTransfer], inv.txlen_busy, inv.idx_busy,
      (fun h => nomatch h), (fun h => nomatch h), (fun h => nomatch h), inv.sentinel,
      fun r hr hne _ => inv.whole_block r hr hne (by simp [hp])⟩
  | flushes hp =>
    have reading : Reading (flushStep s) :=
      ⟨inv.txb_wf, inv.rxb_wf, hb, rfl, inv.cur_of_reply (by simp [hp]) (by simp [hp]), inv.txlen_busy hb,
        Nat.zero_le _, inv.sentinel, fun r hr hne => inv.whole_block r hr hne (by simp [hp])⟩
    exact reading.stateInv (by show 0 < frameLen s.variant; cases s.variant <;> decide) id
  | closes hp => exact (inv.reading hp).stateInv_closeRead
  | waits => exact inv
  | takes hp running left b rest =>
    have next : (s.idx + 1).val = s.idx.val + 1 := val_idx_succ s.idx (by omega)
    exact ((inv.reading hp).takeByte (inv.room_rx hp) b rest).stateInv (next.trans_lt left)
      fun h => absurd h running
  | takesLast hp last b rest => exact ((inv.reading hp).takeByte (inv.room_rx hp) b rest).stateInv_closeRead
  | checks => exact stateInv_checkStep inv

theorem stateInv_tickStep {s : State} (inv : StateInv s) : StateInv (tickStep s) := by
  obtain ⟨-, h⟩ | ⟨hp, running, h⟩ | ⟨hp, -, h⟩ := tickStep_cases s <;> rw [h]
  · exact inv
  · exact (inv.reading hp).countDown.stateInv (inv.room_rx hp) fun h => absurd h running
  · exact (inv.reading hp).countDown.stateInv_closeRead

theorem Moved.stateInv {s t : State} (h : Moved s t) (inv : StateInv s) : StateInv t := by
  cases h with
  | stays => exact inv
  | walks hb _ walked => exact walked.stateInv inv hb
  | ticks => exact stateInv_tickStep inv
  | begins hb x cmd dh dl => exact stateInv_beginTransfer inv hb x cmd dh dl
  | runs hb i _ ran => exact stateInv_exec inv hb ran

/-- Settles O46: the invariant does not speak of the agents' fields, reset establishes it, and every move keeps it. -/
theorem invKeptByEveryStep : Obligations.InvKeptByEveryStep := by
  intro s t inv h
  obtain ⟨r, p, w, d, ⟨-, rfl⟩ | moved⟩ := step_moved h
  · exact stateInv_resetEvent _
  · exact moved.stateInv (inv.withAgents r p w d)

end Sys2Proof.Machine
end

section
/-! PROOFS. The phase walk step by step: the arcs of 10_state.md R20, and the timer of R21, which belongs to phase RX. -/

namespace Sys2Proof.Machine

/-! ### The arcs -/

/-- What R20 asks of a step: it is along an arc, and TX ends as the transfer has it. -/
def FollowsArc (s t : State) : Prop :=
  phaseArc s.phase t.phase = true ∧ (s.phase = .tx → t.phase = .idle → s.cur ≠ some .query) ∧
    (s.phase = .tx → t.phase = .flush → s.cur = some .query)

theorem Walked.followsArc {s t : State} (h : Walked s t) : FollowsArc s t := by
  cases h with
  | stray hp | writes hp | flushes hp | closes hp | waits hp | takes hp | takesLast hp | checks hp =>
    simp [FollowsArc, hp, phaseArc, flushStep, checkStep]
  | endsSend hp noQuery => simp [FollowsArc, hp, phaseArc, noQuery]
  | turns hp query => simp [FollowsArc, hp, phaseArc, query]

/-- A move that leaves the phase alone is an arc, of neither end of TX. -/
theorem followsArc_of_same_phase {s t : State} (h : t.phase = s.phase) : FollowsArc s t := by
  unfold FollowsArc
  rw [h]
  cases s.phase <;> simp [phaseArc]

theorem Moved.followsArc {s t : State} (h : Moved s t) (inv : StateInv s) : FollowsArc s t := by
  cases h with
  | stays => exact followsArc_of_same_phase rfl
  | walks _ _ walked => exact walked.followsArc
  | ticks =>
    obtain ⟨-, h⟩ | ⟨-, -, h⟩ | ⟨hp, -, h⟩ := tickStep_cases s <;> rw [h]
    · exact followsArc_of_same_phase rfl
    · exact followsArc_of_same_phase rfl
    · simp [FollowsArc, hp, phaseArc]
  | begins hb => simp [FollowsArc, inv.phase_of_idle hb, beginTransfer, phaseArc]
  | runs hb i _ ran => exact followsArc_of_same_phase (onlyTransfersWriteTransmitSide i s t ran).2.1

/-- Settles O55: every move but reset is along an arc, and what ends in TX without being a QUERY is a SEND. -/
theorem phaseWalkFollowsArcs : Obligations.PhaseWalkFollowsArcs := by
  intro s t inv h noReset
  obtain ⟨r, p, w, d, ⟨reset, -⟩ | moved⟩ := step_moved h
  · exact absurd reset noReset
  obtain ⟨arc, hend, hturn⟩ := moved.followsArc (inv.withAgents r p w d)
  refine ⟨arc, fun hs ht => ?_, hturn⟩
  have noQuery : s.cur ≠ some .query := hend hs ht
  have fits := inv.cur_fits
  rw [hs] at fits
  match hc : s.cur with
  | none => simp [hc, phaseTransfer] at fits
  | some .send => rfl
  | some .query => exact absurd hc noQuery

/-! ### The timer -/

/-- A timer that is kept, or falls by one. -/
def FallsAtMostOne (before after : Half) : Prop := after = before ∨ after.toNat + 1 = before.toNat

theorem fallsAtMostOne_countDown (s : State) : FallsAtMostOne s.tmr (countDown s).tmr := by
  rw [countDown_tmr]
  split_ifs with hzero
  · exact .inl hzero.symm
  · have positive : s.tmr.toNat ≠ 0 := fun h => hzero (BitVec.eq_of_toNat_eq h)
    exact .inr (by bv_omega)

/-- What a move does about the timer and the block read, according to whether it begins or ends in RX. -/
inductive TimerMove (s t : State) : Prop
  | outside (before : s.phase ≠ .rx) (after : t.phase ≠ .rx) (tmr : t.tmr = s.tmr)
      (block : s.phase = .check → t.rxb = s.rxb ∧ t.rxcnt = s.rxcnt)
  | enters (before : s.phase = .flush) (after : t.phase = .rx) (tmr : t.tmr = s.timeout)
  | inside (before : s.phase = .rx) (after : t.phase = .rx) (tmr : FallsAtMostOne s.tmr t.tmr)
  | leaves (before : s.phase = .rx) (after : t.phase ≠ .rx) (tmr : FallsAtMostOne s.tmr t.tmr)
      (ended : t.idx.val = frameLen s.variant ∨ t.tmr = 0#16)

/-- A read that is full takes nothing more. -/
theorem val_idx_closeRead_of_full {s : State} (h : s.idx.val = frameLen s.variant) :
    (closeRead s).idx.val = frameLen s.variant := by
  rw [val_closeRead s h.le, h]
  simp

theorem Walked.timerMove {s t : State} (h : Walked s t) (inv : StateInv s) : TimerMove s t := by
  have bound := frameLen_le s.variant
  cases h with
  | stray hp | writes hp => exact .outside (by simp [hp]) (by simp [hp]) rfl (by simp [hp])
  | endsSend hp | turns hp => exact .outside (by simp [hp]) (by simp) rfl (by simp [hp])
  | flushes hp => exact .enters hp rfl rfl
  | closes hp ended =>
    refine .leaves hp (by simp) (.inl rfl) (ended.symm.imp_left fun full => ?_)
    exact val_idx_closeRead_of_full (Nat.le_antisymm (inv.room_rx hp).le full)
  | waits hp => exact .inside hp hp (.inl rfl)
  | takes hp => exact .inside hp hp (.inl rfl)
  | takesLast hp last b rest =>
    refine .leaves hp (by simp) (.inl rfl) (.inl ?_)
    exact val_idx_closeRead_of_full ((val_idx_succ s.idx (by omega)).trans last)
  | checks hp => exact .outside (by simp [hp]) (by simp [checkStep]) rfl (fun _ => ⟨rfl, rfl⟩)

theorem Moved.timerMove {s t : State} (h : Moved s t) (inv : StateInv s) : TimerMove s t := by
  cases h with
  | stays =>
    by_cases hp : s.phase = .rx
    · exact .inside hp hp (.inl rfl)
    · exact .outside hp hp rfl fun _ => ⟨rfl, rfl⟩
  | walks _ _ walked => exact walked.timerMove inv
  | ticks =>
    obtain ⟨hp, h⟩ | ⟨hp, -, h⟩ | ⟨hp, zero, h⟩ := tickStep_cases s <;> rw [h]
    · exact .outside hp hp rfl fun _ => ⟨rfl, rfl⟩
    · exact .inside hp hp (fallsAtMostOne_countDown s)
    · exact .leaves hp (by simp) (fallsAtMostOne_countDown s) (.inr zero)
  | begins hb =>
    have hp := inv.phase_of_idle hb
    exact .outside (by simp [hp]) (by simp [beginTransfer]) rfl (by simp [hp])
  | runs hb i _ ran =>
    have hp := inv.phase_of_idle hb
    obtain ⟨-, hphase, -, htmr, -⟩ := onlyTransfersWriteTransmitSide i s t ran
    exact .outside (by simp [hp]) (by simp [hphase, hp]) htmr (by simp [hp])

/-- Settles O56: the four kinds of move fix the timer, and of a state in RX the invariant says that the read has not
ended. -/
theorem timerRunsOnlyInRx : Obligations.TimerRunsOnlyInRx := by
  intro s t inv h noReset
  have invt := invKeptByEveryStep s t inv h
  rw [← frameLen_eq_ite, ← frameLen_eq_ite]
  obtain ⟨r, p, w, d, ⟨reset, -⟩ | moved⟩ := step_moved h
  · exact absurd reset noReset
  have open_read : t.phase = .rx → t.idx.val < frameLen t.variant ∧ (t.tmr = 0#16 → t.timeout = 0#16) :=
    fun ht => ⟨invt.room_rx ht, invt.timer_rx ht⟩
  cases moved.timerMove (inv.withAgents r p w d) with
  | outside before after tmr block =>
    exact ⟨fun _ ht => absurd ht after, fun hs => absurd hs before, fun _ _ => tmr, fun hs => absurd hs before, open_read,
      block⟩
  | enters before after tmr =>
    have hs : s.phase = .flush := before
    exact ⟨fun _ _ => tmr, by simp [hs], fun _ ht => absurd after ht, by simp [hs], open_read, by simp [hs]⟩
  | inside before after tmr =>
    have hs : s.phase = .rx := before
    exact ⟨by simp [hs], fun _ => tmr, by simp [hs], fun _ ht => absurd after ht, open_read, by simp [hs]⟩
  | leaves before after tmr ended =>
    have hs : s.phase = .rx := before
    exact ⟨by simp [hs], fun _ => tmr, by simp [hs], fun _ _ => ended, open_read, by simp [hs]⟩

end Sys2Proof.Machine
end

section
/-! PROOFS. Whole operations run in phases: an operation begun is a frame on the wire (10_state.md R20), a QUERY goes on to
one bounded read, and both end where the transaction level ends (00_scope.md R6, 60_exceptions.md R118). -/

namespace Sys2Proof.Machine

/-! ### The two resting points of a transfer -/

/-- The end of TX: the frame is in `TXB` and on the wire, and the bytes `A` have arrived meanwhile. -/
def afterFrame (x : Transfer) (cmd dh dl : Byte) (rest : List Input) (j : Fin 11) (A : Bytes) (d : Nat) (s : State) :
    State :=
  { transmit cmd dh dl s with
    busy := true, phase := .tx, idx := j, cur := some x, pending := s.pending ++ A, inputs := rest, draws := d }

/-- The end of RX: of the bytes `A` that arrived since the discard the first are the block read, `r` of them, and the
rest is pending. -/
def afterRead (A : Bytes) (d : Nat) (x : Half) (r : Fin 11) (s : State) : State :=
  { s with
    phase := .check, rxb := Memory.writeBlock s.rxb 0 (A.take (frameLen s.variant)),
    pending := A.drop (frameLen s.variant), draws := d, tmr := x, rxcnt := r, idx := r }

/-! ### One free step outside RX -/

section FreeStep

variable {s : State} (hb : s.busy = true) (hi : Held s.inputs)
include hb hi

theorem step_walk (hp : s.phase ≠ .rx) : step s = .next (phaseStep (arriveFree s)) := by
  rw [step_busy hb hi, freeStep, if_neg fun h => hp h.1]

/-- At the end of TX a SEND is over. -/
theorem step_endOfSend (hp : s.phase = .tx) (hn : s.idx.val = frameLen s.variant) (hc : s.cur = some .send) :
    step s = .next (finish .silent (arriveFree s)) := by
  rw [step_walk hb hi (by simp [hp])]
  simp [phaseStep, hp, txStep, hn, hc]

/-- At the end of TX a QUERY goes on to FLUSH. -/
theorem step_turn (hp : s.phase = .tx) (hn : s.idx.val = frameLen s.variant) (hc : s.cur = some .query) :
    step s = .next { arriveFree s with phase := .flush } := by
  rw [step_walk hb hi (by simp [hp])]
  simp [phaseStep, hp, txStep, hn, hc]

/-- FLUSH discards what is pending, what just arrived too, and opens the read. -/
theorem step_flush (hp : s.phase = .flush) :
    step s = .next { s with phase := .rx, idx := 0, tmr := s.timeout, pending := [], draws := s.draws + 1 } := by
  rw [step_walk hb hi (by simp [hp])]
  simp [phaseStep, hp, flushStep, rxDiscard, arriveFree, arrive]

theorem step_check (hp : s.phase = .check) : step s = .next (checkStep (arriveFree s)) := by
  rw [step_walk hb hi (by simp [hp])]
  simp [phaseStep, hp]

/-! ### The reply of a QUERY -/

/-- The discard and the bounded read take the walk to CHECK with the first bytes of what arrived in the meantime, and the
rest of it pending. -/
theorem run_flush (hp : s.phase = .flush) : ∃ (k : Nat) (A : Bytes) (d : Nat) (x : Half) (r : Fin 11),
    r.val = (A.take (frameLen s.variant)).length ∧
    run k s = .next (afterRead A d x r s) := by
  have positive : 0 < frameLen s.variant := by cases s.variant <;> decide
  obtain ⟨k, A, d, x, r, hr, hk⟩ :=
    run_rx _ { s with phase := .rx, idx := 0, tmr := s.timeout, pending := [], draws := s.draws + 1 }
      hb rfl hi positive (le_refl _)
  exact ⟨k + 1, A, d, x, r, hr.trans (Nat.zero_add _), (run_step (step_flush hb hi hp) k).trans hk⟩

/-- The whole reply, from the end of TX. -/
theorem run_reply (hp : s.phase = .tx) (hn : s.idx.val = frameLen s.variant) (hc : s.cur = some .query) :
    ∃ (k : Nat) (A : Bytes) (d : Nat) (x : Half) (r : Fin 11),
      r.val = (A.take (frameLen s.variant)).length ∧
      run k s = .next (afterRead A d x r s) := by
  obtain ⟨k, A, d, x, r, hr, hk⟩ := run_flush (s := { arriveFree s with phase := .flush }) hb hi rfl
  exact ⟨k + 1, A, d, x, r, hr, (run_step (step_turn hb hi hp hn hc) k).trans hk⟩

end FreeStep

/-! ### The frame of a transfer -/

/-- What phase TX reads from the buffer of an accepted transfer is its frame. -/
theorem bytes_beginTransfer (x : Transfer) (cmd dh dl : Byte) (s : State) :
    (List.range' (beginTransfer x cmd dh dl s).idx.val (frameLen s.variant)).map
      (Memory.read (beginTransfer x cmd dh dl s).txb) = buildFrame cmd dh dl s := by
  rw [← length_buildFrame cmd dh dl s]
  exact map_read_writeBlock s.txb (buildFrame cmd dh dl s)

/-- Acceptance and `N` steps put the frame of a transfer on the wire. -/
theorem run_transmit {s : State} {p : Encoded} {rest : List Input} {i : Instr} {x : Transfer} {cmd dh dl : Byte}
    (hb : s.busy = false) (hi : s.inputs = .start p :: rest) (held : Held rest) (hd : decode p = .ok i)
    (ht : transferOf i = some (x, cmd, dh, dl)) :
    ∃ (j : Fin 11) (A : Bytes) (d : Nat), j.val = frameLen s.variant ∧
      run (frameLen s.variant + 1) s = .next (afterFrame x cmd dh dl rest j A d s) := by
  obtain ⟨j, A, d, hj, hr⟩ := run_tx (frameLen s.variant) (beginTransfer x cmd dh dl { s with inputs := rest })
    rfl rfl held (Nat.zero_add _)
  have begins := (step_start hb hi).trans (acceptStart_of_transfer hd ht _)
  have frame := bytes_beginTransfer x cmd dh dl { s with inputs := rest }
  rw [frame, ← run_step begins] at hr
  exact ⟨j, A, d, hj, hr⟩

/-! ### The two levels of an operation -/

/-- An instruction that performs a SEND is that SEND. -/
theorem exec_of_send {i : Instr} {cmd dh dl : Byte} (h : transferOf i = some (.send, cmd, dh, dl)) (s : State) :
    exec i s = .next (sendOp cmd dh dl s) := by
  cases i with
  | send | cmdSetvolume | cmd0B => cases h; rfl
  | _ => cases h

/-- An instruction that performs a QUERY is that QUERY. -/
theorem exec_of_query {i : Instr} {cmd dh dl : Byte} (h : transferOf i = some (.query, cmd, dh, dl)) (s : State) :
    exec i s = .next (queryNext cmd dh dl s) := by
  cases i with
  | query | cmdQueryvolume => cases h; rfl
  | _ => cases h

/-- Settles O58: the frame goes out, the step after it is the end, and both levels have written the same registers. -/
theorem phasedSendRefinesSend : Obligations.PhasedSendRefinesSend := by
  intro s p rest i cmd dh dl inv hb hi held hd ht
  rw [← frameLen_eq_ite]
  have hp := inv.phase_of_idle hb
  obtain ⟨j, A, d, hj, sent⟩ := run_transmit hb hi held hd ht
  have ended := run_step (step_endOfSend (s := afterFrame .send cmd dh dl rest j A d s) rfl held rfl hj rfl) 0
  refine ⟨_, _, A ++ Config.arrival d, (run_add sent).trans ended, exec_of_send ht _, ?_⟩
  have hc := inv.cur_of_idle hp
  constructor <;> simp [afterFrame, buildFrame, hb, hp, hc]

/-- CHECK records the outcome of `decode` on the block that was read, for the command at `TXB[3]`. -/
theorem checkStep_afterRead {A : Bytes} {d : Nat} {x : Half} {r : Fin 11} {s : State}
    (hr : r.val = (A.take (frameLen s.variant)).length) :
    checkStep (arriveFree (afterRead A d x r s)) =
      finish (.result (resultOf (judge (A.take (frameLen s.variant)) s)))
        (recordOutcome (judge (A.take (frameLen s.variant)) s) (arriveFree (afterRead A d x r s))) := by
  have block : Memory.block (arriveFree (afterRead A d x r s)).rxb (arriveFree (afterRead A d x r s)).rxcnt.val =
      A.take (frameLen s.variant) := by
    show Memory.block (Memory.writeBlock s.rxb 0 (A.take (frameLen s.variant))) r.val = _
    rw [hr, Memory.block_writeBlock]
  unfold checkStep
  rw [block]
  rfl

/-- The command at `TXB[3]` is the one of the frame sent (42_operations.md R88). -/
theorem judge_afterFrame (R : Bytes) (x : Transfer) (cmd dh dl : Byte) (rest : List Input) (j : Fin 11) (A : Bytes)
    (d : Nat) (s : State) : judge R (afterFrame x cmd dh dl rest j A d s) = decodeBlock R cmd s.variant := by
  have expected : Memory.read (afterFrame x cmd dh dl rest j A d s).txb 3 = cmd := expected_transmit cmd dh dl s
  rw [judge, expected]
  rfl

/-- Settles O59: the frame goes out, the reply is read, and CHECK records what the transaction level records for the draw
that was read. -/
theorem phasedQueryRefinesQuery : Obligations.PhasedQueryRefinesQuery := by
  intro s p rest i cmd dh dl inv hb hi held hd ht
  have hp := inv.phase_of_idle hb
  obtain ⟨j, A₀, d₀, hj, sent⟩ := run_transmit hb hi held hd ht
  obtain ⟨k, A, d, x, r, hr, replied⟩ :=
    run_reply (s := afterFrame .query cmd dh dl rest j A₀ d₀ s) rfl held rfl hj rfl
  have checked := run_step (step_check (s := afterRead A d x r (afterFrame .query cmd dh dl rest j A₀ d₀ s))
    rfl held rfl) 0
  rw [checkStep_afterRead hr, judge_afterFrame] at checked
  have count : r = Fin.ofNat 11 (A.take (frameLen s.variant)).length := by
    apply Fin.ext
    rw [val_ofNat_length _ ((List.length_take_le ..).trans (frameLen_le s.variant))]
    exact hr
  refine ⟨_, _, _, A, Config.arrival d, (run_add ((run_add sent).trans replied)).trans checked, rfl,
    (exec_of_query ht _).trans (congrArg Host.Outcome.next (queryNext_eq ..)), ?_⟩
  have hc := inv.cur_of_idle hp
  constructor <;> simp [afterRead, afterFrame, buildFrame, nextDraw, count, hb, hp, hc]

/-! ### Every operation ends -/

/-- Some run from the state ends with `BUSY = 0`. -/
def Ends (s : State) : Prop := ∃ (k : Nat) (t : State), run k s = .next t ∧ t.busy = false

theorem Ends.of_run {k : Nat} {s t : State} (h : run k s = .next t) (ends : Ends t) : Ends s := by
  obtain ⟨m, u, hm, hu⟩ := ends
  exact ⟨k + m, u, (run_add h).trans hm, hu⟩

section Ends

variable {s : State} (hb : s.busy = true) (hi : Held s.inputs)
include hb hi

theorem ends_of_check (hp : s.phase = .check) : Ends s := ⟨1, _, run_step (step_check hb hi hp) 0, rfl⟩

theorem ends_of_rx (hp : s.phase = .rx) (room : s.idx.val < frameLen s.variant) : Ends s := by
  obtain ⟨k, A, d, x, r, -, read⟩ := run_rx _ s hb hp hi room (le_refl _)
  exact .of_run read (ends_of_check hb hi rfl)

theorem ends_of_flush (hp : s.phase = .flush) : Ends s := by
  obtain ⟨k, A, d, x, r, -, read⟩ := run_flush hb hi hp
  exact .of_run read (ends_of_check hb hi rfl)

/-- At the end of TX a SEND is over, and a QUERY still has its reply. -/
theorem ends_of_frameSent (hp : s.phase = .tx) (hn : s.idx.val = frameLen s.variant) (hc : s.cur ≠ none) : Ends s := by
  match h : s.cur with
  | none => exact absurd h hc
  | some .send => exact ⟨1, _, run_step (step_endOfSend hb hi hp hn h) 0, rfl⟩
  | some .query => exact .of_run (run_step (step_turn hb hi hp hn h) 0) (ends_of_flush (by exact hb) hi rfl)

theorem ends_of_tx (hp : s.phase = .tx) (hidx : s.idx.val ≤ frameLen s.variant) (hc : s.cur ≠ none) : Ends s := by
  obtain ⟨j, A, d, hj, sent⟩ := run_tx (frameLen s.variant - s.idx.val) s hb hp hi (Nat.add_sub_of_le hidx)
  exact .of_run sent (ends_of_frameSent (by exact hb) hi hp hj hc)

end Ends

/-- Settles O60: an idle DFC has nothing to end, and each phase of a busy one comes to the end of the walk. -/
theorem everyOperationEnds : Obligations.EveryOperationEnds := by
  intro s inv hi
  cases hb : s.busy with
  | false => exact ⟨0, s, rfl, hb⟩
  | true =>
    cases hp : s.phase with
    | idle => exact absurd hp (inv.busy_iff.1 hb)
    | tx =>
      refine ends_of_tx hb hi hp (inv.idx_busy hb) fun hc => ?_
      have fits := inv.cur_fits
      simp [hp, hc, phaseTransfer] at fits
    | flush => exact ends_of_flush hb hi hp
    | rx => exact ends_of_rx hb hi hp (inv.room_rx hp)
    | check => exact ends_of_check hb hi hp

end Sys2Proof.Machine
end
